-- ==== Sys2Proof/Word.lean ====
section
/-! DEFINITION. The bit-vector types of the spec's fields (R8, R34, R39). -/

namespace Sys2Proof

/-- One byte: a sample byte, the identity byte, the opcode, the STATUS byte. -/
abbrev Byte := BitVec 8

/-- A 32-bit field: `ACC`, `DT` and each 32-bit lane of RESULT (R8, R41). -/
abbrev Word32 := BitVec 32

/-- A velocity register (R12). -/
abbrev Word64 := BitVec 64

/-- The payload `P = C[63:0]` (R34). -/
abbrev Payload := BitVec 64

/-- A command word `C[71:0]` (R34). -/
abbrev CmdWord := BitVec 72

/-- The RESULT field `RSP[127:0]` (R39). -/
abbrev ResultWord := BitVec 128

/-- A response word `RSP[135:0]` (R39). -/
abbrev RspWord := BitVec 136

end Sys2Proof
end

