-- ==== Sys2Proof/Syntax.lean ====
section
/-! DEFINITION. The seven commands of spec/opcode_table.json, with the operand fields of R36. -/

namespace Sys2Proof

/-- One constructor per row of the opcode table (R35). An operand has exactly the width of its field (R36), so every
term is an instruction the encoding can write; reserved payload bits are no part of an instruction (R37). -/
inductive Instr where
  /-- NOP, format Z (R61). -/
  | nop
  /-- IDCHK, format I: the byte read from the identity register (R49). -/
  | idchk (idb : Byte)
  /-- DECODE, format S: `X_high, X_low, Y_high, Y_low, Z_high, Z_low` (R50). -/
  | decode (b0 b1 b2 b3 b4 b5 : Byte)
  /-- DECRAW, format S: the bytes as for DECODE (R51). -/
  | decraw (b0 b1 b2 b3 b4 b5 : Byte)
  /-- UPDATE, format U: `ACC` and `DT`, two's complement (R55). -/
  | update (acc dt : Word32)
  /-- RESET, format Z (R56). -/
  | reset
  /-- QUERY, format Z (R57). -/
  | query
  deriving DecidableEq, Repr

end Sys2Proof
end

