-- ==== Sys2Proof/WellFormed.lean ====
section
/-! DEFINITION. Which command words are well formed: the opcode is assigned and every reserved payload bit is 0.
Written from the match and mask columns of spec/opcode_table.json, apart from the decoder (which is written from the
rules R35, R36 and R65), so that the two can be held against each other. -/

namespace Sys2Proof

/-- One row of spec/opcode_table.json. -/
structure OpRow where
  mnemonic : String
  /-- The fixed bits' values (the table's "match"). -/
  pattern  : CmdWord
  /-- The opcode bits and the reserved bits (the table's "mask"). -/
  mask     : CmdWord
  deriving DecidableEq, Repr

/-- spec/opcode_table.json, row by row. -/
def opcodeTable : List OpRow :=
  [ ⟨"NOP",    0x000000000000000000#72, 0xFFFFFFFFFFFFFFFFFF#72⟩,
    ⟨"IDCHK",  0x010000000000000000#72, 0xFFFFFFFFFFFFFFFF00#72⟩,
    ⟨"DECODE", 0x020000000000000000#72, 0xFFFFFF000000000000#72⟩,
    ⟨"DECRAW", 0x030000000000000000#72, 0xFFFFFF000000000000#72⟩,
    ⟨"UPDATE", 0x040000000000000000#72, 0xFF0000000000000000#72⟩,
    ⟨"RESET",  0x050000000000000000#72, 0xFFFFFFFFFFFFFFFFFF#72⟩,
    ⟨"QUERY",  0x060000000000000000#72, 0xFFFFFFFFFFFFFFFFFF#72⟩ ]

/-- The word has the row's opcode and none of its reserved bits. -/
def OpRow.hits (r : OpRow) (c : CmdWord) : Bool := c &&& r.mask == r.pattern

/-- The mnemonics of the rows a word belongs to (at most one: the rows do not overlap). -/
def tableMnemonics (c : CmdWord) : List String := (opcodeTable.filter (·.hits c)).map (·.mnemonic)

/-- A well-formed command word: some row of the table takes it (R37, R42). The checks are the assigned opcode and,
per format, the reserved bits; Tests/Slice0.lean has an ill-formed word for each. -/
def wellFormedWord (c : CmdWord) : Bool := opcodeTable.any (·.hits c)

/-- The mnemonic of an instruction, as the table spells it. -/
def Instr.mnemonic : Instr → String
  | .nop => "NOP"
  | .idchk _ => "IDCHK"
  | .decode _ _ _ _ _ _ => "DECODE"
  | .decraw _ _ _ _ _ _ => "DECRAW"
  | .update _ _ => "UPDATE"
  | .reset => "RESET"
  | .query => "QUERY"

end Sys2Proof
end

