-- ==== Sys2Proof/Decode.lean ====
section
/-! DEFINITION. The decoder of command words, total on all 2^72 of them (R34 to R38, R42, R64 to R66), and after it
the encoder (R45). -/

namespace Sys2Proof

/-- The four payload formats (R36). -/
inductive Format where
  | Z | I | S | U
  deriving DecidableEq, Repr

/-- The assigned opcodes (R35). -/
inductive Opcode where
  | nop | idchk | decode | decraw | update | reset | query
  deriving DecidableEq, Repr

/-- Why a word does not execute (R63). -/
inductive DecodeError where
  /-- `OP` is in 0x07 .. 0xFF (R64). -/
  | illegalOpcode
  /-- `OP` is assigned and a reserved payload bit is 1 (R65). -/
  | reservedNonzero
  deriving DecidableEq, Repr

/-- What the decoder answers for a word. -/
inductive Decoded where
  | ok (i : Instr)
  | error (e : DecodeError)
  deriving DecidableEq, Repr

/-- `OP = C[71:64]` (R34). -/
def opField (c : CmdWord) : Byte := c.extractLsb' 64 8

/-- `P = C[63:0]` (R34). -/
def payloadField (c : CmdWord) : Payload := c.extractLsb' 0 64

/-- The opcode assignment of R35; the opcodes 0x07 to 0xFF are unassigned (R42). -/
def Opcode.ofByte (op : Byte) : Option Opcode :=
  match op.toNat with
  | 0 => some .nop
  | 1 => some .idchk
  | 2 => some .decode
  | 3 => some .decraw
  | 4 => some .update
  | 5 => some .reset
  | 6 => some .query
  | _ => none

/-- The `OP` column of R35. -/
def Opcode.toByte : Opcode → Byte
  | .nop => 0x00#8
  | .idchk => 0x01#8
  | .decode => 0x02#8
  | .decraw => 0x03#8
  | .update => 0x04#8
  | .reset => 0x05#8
  | .query => 0x06#8

/-- The format column of R35. -/
def Opcode.format : Opcode → Format
  | .nop => .Z
  | .idchk => .I
  | .decode => .S
  | .decraw => .S
  | .update => .U
  | .reset => .Z
  | .query => .Z

/-- `RMASK`, the reserved payload bits of a format (R65). -/
def Format.rmask : Format → Payload
  | .Z => 0xFFFFFFFFFFFFFFFF#64
  | .I => 0xFFFFFFFFFFFFFF00#64
  | .S => 0xFFFF000000000000#64
  | .U => 0x0000000000000000#64

/-- Byte `k` of a payload, counted from the least significant. -/
def payloadByte (p : Payload) (k : Nat) : Byte := p.extractLsb' (8 * k) 8

/-- The operand fields of R36 (bytes placed as R27 says: byte 0 of the block is `P[47:40]`). -/
def Opcode.assemble (o : Opcode) (p : Payload) : Instr :=
  match o with
  | .nop => .nop
  | .idchk => .idchk (payloadByte p 0)
  | .decode =>
    .decode (payloadByte p 5) (payloadByte p 4) (payloadByte p 3) (payloadByte p 2) (payloadByte p 1) (payloadByte p 0)
  | .decraw =>
    .decraw (payloadByte p 5) (payloadByte p 4) (payloadByte p 3) (payloadByte p 2) (payloadByte p 1) (payloadByte p 0)
  | .update => .update (p.extractLsb' 32 32) (p.extractLsb' 0 32)
  | .reset => .reset
  | .query => .query

/-- The checks of R66 in their order: unassigned opcode, then reserved bits, then the command. -/
def decodeWord (c : CmdWord) : Decoded :=
  match Opcode.ofByte (opField c) with
  | none => .error .illegalOpcode
  | some o =>
    if payloadField c &&& o.format.rmask = 0#64 then .ok (o.assemble (payloadField c))
    else .error .reservedNonzero

/-- The host's reading of a table word: the row's 72 bits are `C[71:0]` themselves, since command words move in
parallel and have no byte order (R27, D25; log 18). -/
def decodeTableWord (nbits w : Nat) : Option Instr :=
  if nbits ≤ 72 ∧ w < 2 ^ 72 then
    match decodeWord (BitVec.ofNat 72 w) with
    | .ok i => some i
    | .error _ => none
  else none

/-- A command word from its two fields (R34). -/
def commandWord (o : Opcode) (p : Payload) : CmdWord := (o.toByte ++ p : BitVec (8 + 64))

/-- The format S payload of six bytes (R27, R36). -/
def samplePayload (b0 b1 b2 b3 b4 b5 : Byte) : Payload :=
  (0#16 ++ b0 ++ b1 ++ b2 ++ b3 ++ b4 ++ b5 : BitVec (16 + 8 + 8 + 8 + 8 + 8 + 8))

/-- The one legal word of an instruction (R37, R45). -/
def encode : Instr → CmdWord
  | .nop => commandWord .nop 0#64
  | .idchk idb => commandWord .idchk (0#56 ++ idb : BitVec (56 + 8))
  | .decode b0 b1 b2 b3 b4 b5 => commandWord .decode (samplePayload b0 b1 b2 b3 b4 b5)
  | .decraw b0 b1 b2 b3 b4 b5 => commandWord .decraw (samplePayload b0 b1 b2 b3 b4 b5)
  | .update acc dt => commandWord .update (acc ++ dt : BitVec (32 + 32))
  | .reset => commandWord .reset 0#64
  | .query => commandWord .query 0#64

end Sys2Proof
end

