-- ==== Sys2Proof/Config.lean ====
section
/-! DEFINITION. The elaboration parameters of an instance (R6) and the constants the spec leaves OPEN. -/

namespace Sys2Proof

/-- The elaboration parameters that a command's result depends on (R6). -/
structure Params where
  /-- `SENS`, raw counts per g. -/
  sens   : Nat
  /-- `GRAV_UM`, gravity in 1e-6 m/s^2 per g. -/
  gravUm : Nat
  /-- `DZ_UM`, the deadzone bound in 1e-6 m/s^2. -/
  dzUm   : Nat
  /-- `IDENT`, the expected identity byte. -/
  ident  : Byte
  deriving DecidableEq, Repr

/-- R6, the column "Value for this hardware (default)". -/
def Params.default : Params :=
  { sens := 16384, gravUm := 9810000, dzUm := 50000, ident := 0x68#8 }

/-- Free value: `LAT - 1` of the instance at a place of its system, where R6 leaves `LAT >= 1` OPEN (log 4). -/
opaque Config.latBeyondOne : Nat → Nat

/-- `LAT` of the instance at a place: the least number of cycles from acceptance to a valid response (R6, R84). Instances
may differ in it (R3), so each place has its own; that a place names an instance is the model's choice (logs 4, 12). -/
def Config.lat (place : Nat) : Nat := Config.latBeyondOne place + 1

/-- Free value: how many cycles beyond `LAT` the response to the n-th accepted command of the instance at a place takes.
R86 gives no upper bound but says each response does come, so it is some natural number for each command. That it hangs
on the place and the count alone is the model's choice (log 4). -/
opaque Config.extraDelay : Nat → Nat → Nat

/-- Free value: `N_INST - 1`, where R6 leaves `N_INST >= 1` OPEN (log 12). -/
opaque Config.instBeyondOne : Nat

/-- `N_INST`, the number of independent instances in a system (R6, R74). -/
def Config.nInst : Nat := Config.instBeyondOne + 1

end Sys2Proof
end

