-- ==== Sys2Proof/Machine/State.lean ====
section
/-! DEFINITION. The state of one instance: the registers of R12, the port-level state of R21, the instance's
parameters (R6), and the host's inputs and observations as plain data. -/

namespace Sys2Proof.Machine

/-- The block has no fault: every command word gets a response and the block keeps going (R63, R66, R72), so this type
has no constructor and nobody raises one (log 16). -/
inductive Fault where
  deriving DecidableEq, Repr

/-- Why a step has no answer. -/
inductive Refusal where
  /-- Raised by exec for an instruction that has no meaning yet. Safe. No arm raises it now. -/
  | notModelled (mnemonic : String)
  /-- Raised by step for an instance whose parameters break R6 or R7; spec/93 I10 says to refuse it. Safe (log 2). -/
  | illegalParameters
  /-- Raised by step when the host changes or withdraws a command it must hold (R84); spec/93 I9 says to refuse it.
  Safe (log 6). -/
  | commandNotHeld
  deriving DecidableEq, Repr

/-- `STATUS.CODE`; the values 0x3 to 0xF are never produced (R40). -/
inductive RespCode where
  | ok | illegalOpcode | reservedNonzero
  deriving DecidableEq, Repr

/-- The STATUS byte's fields (R40). -/
structure Status where
  dz   : Bool
  sat  : Bool
  det  : Bool
  ovf  : Bool
  code : RespCode
  deriving DecidableEq, Repr

/-- One response (R39). -/
structure Response where
  status : Status
  result : ResultWord
  deriving DecidableEq, Repr

/-- An accepted command whose response has not been taken (R21). -/
structure Pending where
  rsp : Response
  /-- The next rising edge is this many cycles after the accepting one (R84). -/
  age : Nat
  deriving DecidableEq, Repr

/-- The inputs at one rising edge of `clk` (R83). -/
structure PortIn where
  rst      : Bool
  cmdValid : Bool
  cmdData  : CmdWord
  rspReady : Bool
  deriving DecidableEq, Repr

structure State where
  /-- The instance's elaboration parameters, fixed for the instance (R6; log 1). -/
  params    : Params
  /-- The instance's place in its system, which keys its free `LAT` and delays; the model's own (R3, R74; logs 4, 12). -/
  place     : Nat
  /-- `VEL` (R13). -/
  vel       : Word64
  /-- `LAST_VEL` (R14). -/
  lastVel   : Word64
  /-- `OVF` (R16). -/
  ovf       : Bool
  /-- The outstanding command, if any (R21, R84). -/
  pending   : Option Pending
  /-- The command word presented and not accepted at the last edge, which the host must hold (R84; log 6). -/
  held      : Option CmdWord
  /-- The rising edges still to come, the next one first (R83; log 7). -/
  inputs    : List PortIn
  /-- The responses the host has taken, oldest first (R31; log 9). -/
  delivered : List Response
  /-- How many commands have been accepted (log 9). -/
  accepted  : Nat
  deriving DecidableEq, Repr

/-- After hardware reset: `VEL = LAST_VEL = 0`, `OVF = 0`, no command outstanding (R12, R77, R78), at the parameter
values of this hardware (R6), with nothing presented yet; the instance at place 0 (log 12). -/
def State.reset : State :=
  { params := Params.default
    place := 0
    vel := 0#64
    lastVel := 0#64
    ovf := false
    pending := none
    held := none
    inputs := []
    delivered := []
    accepted := 0 }

end Sys2Proof.Machine
end

