-- ==== Sys2Proof/Machine/Flags.lean ====
section
/-! DEFINITION. The STATUS byte, the response word, and the flag rules (R16, R39, R40, R49, R53, R54). -/

namespace Sys2Proof.Machine

/-- `STATUS[3:0]` (R40). -/
def RespCode.bits : RespCode → BitVec 4
  | .ok => 0x0#4
  | .illegalOpcode => 0x1#4
  | .reservedNonzero => 0x2#4

/-- `{DZ, SAT, DET, OVF, CODE}` (R40). -/
def Status.toByte (s : Status) : Byte :=
  (BitVec.ofBool s.dz ++ BitVec.ofBool s.sat ++ BitVec.ofBool s.det ++ BitVec.ofBool s.ovf ++ s.code.bits :
    BitVec (1 + 1 + 1 + 1 + 4))

/-- `RSP[135:0]` (R39). -/
def Response.toWord (r : Response) : RspWord := (r.status.toByte ++ r.result : BitVec (8 + 128))

/-- A status with `DZ = SAT = DET = 0`. -/
def plainStatus (ovf : Bool) (code : RespCode) : Status :=
  { dz := false, sat := false, det := false, ovf := ovf, code := code }

/-- `DET` of IDCHK: the compare is on all 8 bits (R49). -/
def detFlag (p : Params) (idb : Byte) : Bool := idb == p.ident

/-- `dz`: the acceleration lies in the open interval `(-DZ_UM, DZ_UM)` (R53). -/
def dzFlag (p : Params) (a : Int) : Bool := decide (-(p.dzUm : Int) < a ∧ a < (p.dzUm : Int))

/-- `sat`: the clamped value differs from the exact sum (R54). -/
def satFlag (v sum : Int) : Bool := v != sum

/-- `ovf' = OVF or sat`: set by a saturating UPDATE, never cleared by one (R16, R55). -/
def stickyOvf (ovf sat : Bool) : Bool := ovf || sat

end Sys2Proof.Machine
end

