-- ==== Sys2Proof/Machine/Operands.lean ====
section
/-! DEFINITION. The number primitives of R10 on fields, the operand assembly of R38 and R47, and the RESULT layouts
of R41. -/

namespace Sys2Proof.Machine

/-- `sint(v)` (R10). -/
def sint {w : Nat} (v : BitVec w) : Int := v.toInt

/-- `bits_N(n)` (R10); every use in the spec is on a value already in range. -/
def bits (N : Nat) (n : Int) : BitVec N := BitVec.ofInt N n

/-- `{hi, lo}`, the high byte in the more significant bits (R10, R27). -/
def joinBytes (hi lo : Byte) : BitVec 16 := (hi ++ lo : BitVec (8 + 8))

/-- Two's-complement decode of one axis (R47). -/
def raw16 (hi lo : Byte) : Int := sint (joinBytes hi lo)

/-- RESULT of DECODE and DECRAW: `{zext_32(0), x, y, z}` (R41). -/
def laneResult (x y z : Word32) : ResultWord := (0#32 ++ x ++ y ++ z : BitVec (32 + 32 + 32 + 32))

/-- RESULT of UPDATE and QUERY: `{LAST_VEL, VEL}` (R41). -/
def velocityResult (lastVel vel : Word64) : ResultWord := (lastVel ++ vel : BitVec (64 + 64))

/-- `RESULT[95:64]`, the X lane (R41). -/
def laneX (r : ResultWord) : Word32 := r.extractLsb' 64 32

/-- `RESULT[63:32]`, the Y lane (R41). -/
def laneY (r : ResultWord) : Word32 := r.extractLsb' 32 32

/-- `RESULT[31:0]`, the Z lane (R41). -/
def laneZ (r : ResultWord) : Word32 := r.extractLsb' 0 32

/-- `sext_32(bits_16(r))` (R51). -/
def rawLane (r : Int) : Word32 := (bits 16 r).signExtend 32

end Sys2Proof.Machine
end

