-- ==== Sys2Proof/Machine/Ops.lean ====
section
/-! DEFINITION. The shared functions of the rules (R10, R48, R53, R54), the operations on registers and on the port,
and the error response, which is the whole of the block's reaction to an error (R63, R72). -/

namespace Sys2Proof.Machine

/-- The type column of R6 and the constraint of R7. -/
def paramsLegal (p : Params) : Bool :=
  decide (1 ≤ p.sens) && decide (p.dzUm ≤ 2 ^ 31 - 1) &&
    decide (2 * 32768 * p.gravUm + p.sens < 2 ^ 32 * p.sens)

/-- `round_half_away(n, d)` (R10). -/
def roundHalfAway (n : Int) (d : Nat) : Int :=
  let q := n.natAbs / d
  let r := n.natAbs - q * d
  let q' := if 2 * r ≥ d then q + 1 else q
  if n ≥ 0 then (q' : Int) else -(q' : Int)

/-- `sat64(n)` (R10). -/
def sat64 (n : Int) : Int :=
  if n > 2 ^ 63 - 1 then 2 ^ 63 - 1
  else if n < -2 ^ 63 then -2 ^ 63
  else n

/-- `conv(r)`: normalise and scale a raw word, rounded once (R48). -/
def conv (p : Params) (r : Int) : Int := roundHalfAway (r * p.gravUm) p.sens

/-- `a_eff` of the deadzone gate (R53). -/
def effAccel (p : Params) (a : Int) : Int := if dzFlag p a then 0 else a

/-- The exact `sum` of the recurrence (R54). -/
def exactSum (aEff dt : Int) (lastVel : Word64) : Int := sint lastVel + aEff * dt

/-- Write both velocity registers with one value, as every writer of one does (R15). -/
def writeVelocity (v : Word64) (s : State) : State := { s with vel := v, lastVel := v }

def writeOvf (o : Bool) (s : State) : State := { s with ovf := o }

/-- `VEL <- 0; LAST_VEL <- 0; OVF <- 0` (R56, R77, R78). -/
def zeroIntegrator (s : State) : State := writeOvf false (writeVelocity 0#64 s)

/-- `RSP <- r`: the command has been accepted and its one response is owed (R39, R84). -/
def respond (r : Response) (s : State) : State :=
  { s with pending := some { rsp := r, age := 1 }, accepted := s.accepted + 1 }

/-- The codes of R63. -/
def DecodeError.code : DecodeError → RespCode
  | .illegalOpcode => .illegalOpcode
  | .reservedNonzero => .reservedNonzero

/-- `resp(CODE=c, OVF=o)` of R66, the response of a word that does not execute (R64, R65, R67). -/
def errorResponse (e : DecodeError) (ovf : Bool) : Response :=
  { status := plainStatus ovf (DecodeError.code e), result := 0#128 }

/-- An erroneous command: the error response and no register written (R67). -/
def respondError (e : DecodeError) (s : State) : State := respond (errorResponse e s.ovf) s

end Sys2Proof.Machine
end

