-- ==== Sys2Proof/Machine/Control.lean ====
section
/-! DEFINITION. The control command: NOP (42_control.md). -/

namespace Sys2Proof.Machine

/-- The response of a command that reports nothing but `OVF`: `CODE = OK`, `RESULT = 0` (R61). -/
def plainResponse (ovf : Bool) : Response := { status := plainStatus ovf .ok, result := 0#128 }

/-- NOP (R61). -/
def execNop (s : State) : Host.Outcome State Fault Refusal :=
  .next (respond (plainResponse s.ovf) s)

end Sys2Proof.Machine
end

