-- ==== Sys2Proof/Machine/Decoder.lean ====
section
/-! DEFINITION. The register decoder's commands: IDCHK, DECODE, DECRAW (40_decoder.md). Each reads its payload, the
parameters and `OVF`, and writes only its response (R18). -/

namespace Sys2Proof.Machine

/-- The response of IDCHK (R49). -/
def idchkResponse (p : Params) (ovf : Bool) (idb : Byte) : Response :=
  { status := { plainStatus ovf .ok with det := detFlag p idb }, result := 0#128 }

/-- The response of DECODE from the three raw words (R50). -/
def decodeResponse (p : Params) (ovf : Bool) (rx ry rz : Int) : Response :=
  { status := plainStatus ovf .ok
    result := laneResult (bits 32 (conv p rx)) (bits 32 (conv p ry)) (bits 32 (conv p rz)) }

/-- The response of DECRAW from the three raw words (R51). -/
def decrawResponse (ovf : Bool) (rx ry rz : Int) : Response :=
  { status := plainStatus ovf .ok, result := laneResult (rawLane rx) (rawLane ry) (rawLane rz) }

/-- IDCHK (R49). -/
def execIdchk (idb : Byte) (s : State) : Host.Outcome State Fault Refusal :=
  .next (respond (idchkResponse s.params s.ovf idb) s)

/-- DECODE (R50). -/
def execDecode (b0 b1 b2 b3 b4 b5 : Byte) (s : State) : Host.Outcome State Fault Refusal :=
  .next (respond (decodeResponse s.params s.ovf (raw16 b0 b1) (raw16 b2 b3) (raw16 b4 b5)) s)

/-- DECRAW (R51). -/
def execDecraw (b0 b1 b2 b3 b4 b5 : Byte) (s : State) : Host.Outcome State Fault Refusal :=
  .next (respond (decrawResponse s.ovf (raw16 b0 b1) (raw16 b2 b3) (raw16 b4 b5)) s)

end Sys2Proof.Machine
end

