-- ==== Sys2Proof/Machine/Integrator.lean ====
section
/-! DEFINITION. The velocity integrator's commands: UPDATE, RESET, QUERY (41_integrator.md). -/

namespace Sys2Proof.Machine

/-- The response of UPDATE: `{LAST_VEL, VEL}` are both the committed value (R55). -/
def updateResponse (dz sat ovf : Bool) (v : Word64) : Response :=
  { status := { plainStatus ovf .ok with dz := dz, sat := sat }, result := velocityResult v v }

/-- The response of QUERY (R57). -/
def queryResponse (ovf : Bool) (lastVel vel : Word64) : Response :=
  { status := plainStatus ovf .ok, result := velocityResult lastVel vel }

/-- The response of RESET (R56). -/
def resetResponse : Response := { status := plainStatus false .ok, result := 0#128 }

/-- UPDATE (R53, R54, R55): gate, exact sum, saturation, commit, and the sticky flag. -/
def execUpdate (acc dt : Word32) (s : State) : Host.Outcome State Fault Refusal :=
  let a := sint acc
  let sum := exactSum (effAccel s.params a) (sint dt) s.lastVel
  let v := sat64 sum
  let sat := satFlag v sum
  let ovf' := stickyOvf s.ovf sat
  .next (respond (updateResponse (dzFlag s.params a) sat ovf' (bits 64 v))
    (writeOvf ovf' (writeVelocity (bits 64 v) s)))

/-- RESET (R56). -/
def execReset (s : State) : Host.Outcome State Fault Refusal :=
  .next (respond resetResponse (zeroIntegrator s))

/-- QUERY (R57). -/
def execQuery (s : State) : Host.Outcome State Fault Refusal :=
  .next (respond (queryResponse s.ovf s.lastVel s.vel) s)

end Sys2Proof.Machine
end

