-- ==== Sys2Proof/Machine/Dispatch.lean ====
section
/-! DEFINITION. One arm per command (the dispatch of R66). -/

namespace Sys2Proof.Machine

def exec (i : Instr) (s : State) : Host.Outcome State Fault Refusal :=
  match i with
  | .nop => Sys2Proof.Machine.execNop s
  | .idchk idb => Sys2Proof.Machine.execIdchk idb s
  | .decode b0 b1 b2 b3 b4 b5 => Sys2Proof.Machine.execDecode b0 b1 b2 b3 b4 b5 s
  | .decraw b0 b1 b2 b3 b4 b5 => Sys2Proof.Machine.execDecraw b0 b1 b2 b3 b4 b5 s
  | .update acc dt => Sys2Proof.Machine.execUpdate acc dt s
  | .reset => Sys2Proof.Machine.execReset s
  | .query => Sys2Proof.Machine.execQuery s

end Sys2Proof.Machine
end

