-- ==== Sys2Proof/Machine/Port.lean ====
section
/-! DEFINITION. The command and response port (R83, R84), hardware reset (R77 to R79), and what one rising edge of
`clk` does. -/

namespace Sys2Proof.Machine

/-- How many cycles after acceptance the response to the n-th accepted command of the instance at a place becomes valid:
at least the instance's `LAT`, plus a free delay. Keying both by the place is the model's choice: no two instances share
a latency or a delay (R3, R84, R86; log 4). -/
def responseDelay (place n : Nat) : Nat := Config.lat place + Config.extraDelay place n

/-- `cmd_ready`: no reset and nothing outstanding (R79, R84; log 3). -/
def cmdReady (rst : Bool) (s : State) : Bool := !rst && s.pending.isNone

/-- The outstanding response has become valid (R84). -/
def responseReady (place n : Nat) (p : Pending) : Bool := decide (responseDelay place n ≤ p.age)

/-- `rsp_valid` (R79, R83, R84). -/
def rspValid (rst : Bool) (s : State) : Bool :=
  match s.pending with
  | none => false
  | some p => !rst && responseReady s.place s.accepted p

/-- `rsp_data`: the response word while `rsp_valid = 1`, no value otherwise (R83, R84; log 17). -/
def rspData (rst : Bool) (s : State) : Option RspWord :=
  match s.pending with
  | none => none
  | some p => if rspValid rst s then some p.rsp.toWord else none

/-- The host presents something other than the stalled command it must hold (R84). -/
def holdBroken (e : PortIn) (s : State) : Bool :=
  match s.held with
  | none => false
  | some c => !(e.cmdValid && e.cmdData == c)

/-- At an edge where `cmd_ready = 0`: a presented command is stalled and must be held (R84). -/
def recordStall (e : PortIn) (s : State) : State :=
  { s with held := if e.cmdValid then some e.cmdData else none }

/-- At an edge where `cmd_ready = 1` and `rst = 0` nothing stays stalled (R84). -/
def clearStall (s : State) : State := { s with held := none }

/-- Hardware reset: the registers are zeroed and an outstanding command is discarded with its response (R78, R79). -/
def hardwareReset (s : State) : State := { zeroIntegrator s with pending := none }

/-- The host takes the response: it is delivered, once, and the port is free again (R84). -/
def takeResponse (p : Pending) (s : State) : State :=
  { s with pending := none, delivered := s.delivered ++ [p.rsp] }

/-- One more cycle passes with the response not taken; it stays as it is (R84). -/
def awaitResponse (p : Pending) (s : State) : State :=
  { s with pending := some { p with age := p.age + 1 } }

/-- An edge while a command is outstanding (R84). -/
def responseEdge (e : PortIn) (p : Pending) (s : State) : State :=
  if responseReady s.place s.accepted p && e.rspReady then takeResponse p s else awaitResponse p s

/-- An accepted command word: the dispatch of R66. -/
def runCommand (c : CmdWord) (s : State) : Host.Outcome State Fault Refusal :=
  match decodeWord c with
  | .ok i => exec i s
  | .error e => .next (respondError e s)

/-- One rising edge of `clk` with the inputs `e` (R78, R79, R84). -/
def clockEdge (e : PortIn) (s : State) : Host.Outcome State Fault Refusal :=
  if e.rst then .next (recordStall e (hardwareReset s))
  else if holdBroken e s then .refused .commandNotHeld
  else
    match s.pending with
    | some p => .next (recordStall e (responseEdge e p s))
    | none => if e.cmdValid then runCommand e.cmdData (clearStall s) else .next (clearStall s)

/-- The next scheduled edge, or no edge at all when the schedule is empty: `clk` is an input (R83; log 7). -/
def nextEdge (s : State) : Host.Outcome State Fault Refusal :=
  match s.inputs with
  | [] => .next s
  | e :: rest => clockEdge e { s with inputs := rest }

/-- The port made free: an outstanding response is taken and no command is stalled (log 8). -/
def freePort (s : State) : State :=
  match s.pending with
  | none => clearStall s
  | some p => clearStall (takeResponse p s)

/-- The edge at which the host presents a command word (R84). -/
def presentWord (c : CmdWord) : PortIn := { rst := false, cmdValid := true, cmdData := c, rspReady := false }

/-- Put an edge in front of the schedule. -/
def pushInput (e : PortIn) (s : State) : State := { s with inputs := e :: s.inputs }

end Sys2Proof.Machine
end

