-- ==== Sys2Proof/Machine/Step.lean ====
section
/-! DEFINITION. One step of an instance: one rising edge of `clk` (log 7). -/

namespace Sys2Proof.Machine

/-- One step. An instance whose parameters break R6 or R7 is not a legal instance and is refused (spec/93 I10). -/
def step (s : State) : Host.Outcome State Fault Refusal :=
  if paramsLegal s.params then nextEdge s else .refused .illegalParameters

/-- The host presents the command word `w` at the next edge on a free port (log 8), so that the next step runs it. -/
def State.withFetchWord (s : State) (_nbits w : Nat) : State :=
  pushInput (presentWord (BitVec.ofNat 72 w)) (freePort s)

end Sys2Proof.Machine
end

