-- ==== Sys2Proof/Machine/Assembler.lean ====
section
/-! DEFINITION. The assembler syntax, its pseudo-commands and its directive (R45, R46): a source line, its parts, and
the one command word it stands for. What the spec leaves open about the characters of a line is log 14. -/

namespace Sys2Proof.Asm

open Sys2Proof.Machine

/-- An integer operand as written (R45). -/
inductive IntLit where
  /-- Decimal, with an optional `-`. -/
  | dec (neg : Bool) (n : Nat)
  /-- `0x` and hex digits. -/
  | hex (n : Nat)
  deriving DecidableEq, Repr

/-- A decimal literal of UPDATE.SI: whole part and the digits after the point (R46). -/
structure SiLit where
  neg    : Bool
  whole  : Nat
  digits : List Nat
  deriving DecidableEq, Repr

/-- One source line's command: R45's seven forms, R46's pseudo-commands and `.word72`. -/
inductive Line where
  | nop
  | idchk (idb : IntLit)
  | decode (s48 : IntLit)
  | decraw (s48 : IntLit)
  | update (acc dt : IntLit)
  | reset
  | query
  | decodeB (b0 b1 b2 b3 b4 b5 : IntLit)
  | decrawB (b0 b1 b2 b3 b4 b5 : IntLit)
  | updateSi (a t : SiLit)
  | word72 (n : Nat)
  deriving DecidableEq, Repr

def signed (neg : Bool) (n : Nat) : Int := if neg then -(n : Int) else (n : Int)

/-- An unsigned field of `w` bits; out of range is an assembly error, never a wrap (R45). -/
def unsignedField (w : Nat) (l : IntLit) : Option (BitVec w) :=
  match l with
  | .hex n => if n < 2 ^ w then some (BitVec.ofNat w n) else none
  | .dec neg n => if 0 ≤ signed neg n ∧ signed neg n < 2 ^ w then some (BitVec.ofNat w n) else none

/-- A signed decimal value in a field of `w` bits (R45). -/
def signedValue (w : Nat) (v : Int) : Option (BitVec w) :=
  if -2 ^ (w - 1) ≤ v ∧ v < 2 ^ (w - 1) then some (bits w v) else none

/-- A signed field: a decimal operand gives the value, a hex operand the bit pattern (R45). -/
def signedField (w : Nat) (l : IntLit) : Option (BitVec w) :=
  match l with
  | .hex n => if n < 2 ^ w then some (BitVec.ofNat w n) else none
  | .dec neg n => signedValue w (signed neg n)

def digitsValue (ds : List Nat) : Nat := ds.foldl (fun n d => 10 * n + d) 0

/-- The literal times 10^6, exact; more than 6 digits after the point is an assembly error (R46). -/
def SiLit.micro (l : SiLit) : Option Int :=
  if l.digits.length ≤ 6 then
    some (signed l.neg (l.whole * 10 ^ 6 + digitsValue l.digits * 10 ^ (6 - l.digits.length)))
  else none

/-- A format S payload given as one 48-bit number (R45). -/
def sampleWord (o : Opcode) (s : BitVec 48) : CmdWord := commandWord o (0#16 ++ s : BitVec (16 + 48))

/-- `{b0, b1, b2, b3, b4, b5}`, `b0` most significant (R46). -/
def packBytes (b0 b1 b2 b3 b4 b5 : IntLit) : Option (BitVec 48) := do
  let x0 ← unsignedField 8 b0
  let x1 ← unsignedField 8 b1
  let x2 ← unsignedField 8 b2
  let x3 ← unsignedField 8 b3
  let x4 ← unsignedField 8 b4
  let x5 ← unsignedField 8 b5
  some (x0 ++ x1 ++ x2 ++ x3 ++ x4 ++ x5 : BitVec (8 + 8 + 8 + 8 + 8 + 8))

/-- The command word of a line; none is an assembly error (R45, R46). -/
def assemble : Line → Option CmdWord
  | .nop => some (encode .nop)
  | .idchk l => (unsignedField 8 l).map fun b => encode (.idchk b)
  | .decode l => (unsignedField 48 l).map (sampleWord .decode)
  | .decraw l => (unsignedField 48 l).map (sampleWord .decraw)
  | .update a t => do
    let acc ← signedField 32 a
    let dt ← signedField 32 t
    some (encode (.update acc dt))
  | .reset => some (encode .reset)
  | .query => some (encode .query)
  | .decodeB b0 b1 b2 b3 b4 b5 => (packBytes b0 b1 b2 b3 b4 b5).map (sampleWord .decode)
  | .decrawB b0 b1 b2 b3 b4 b5 => (packBytes b0 b1 b2 b3 b4 b5).map (sampleWord .decraw)
  | .updateSi a t => do
    let av ← a.micro
    let tv ← t.micro
    let acc ← signedValue 32 av
    let dt ← signedValue 32 tv
    some (encode (.update acc dt))
  | .word72 n => if n < 2 ^ 72 then some (BitVec.ofNat 72 n) else none

/-! The characters of a line. -/

def isBlank (c : Char) : Bool := c == ' ' || c == '\t' || c == '\r'

/-- A decimal digit's value. -/
def decDigit (c : Char) : Option Nat :=
  if '0'.toNat ≤ c.toNat ∧ c.toNat ≤ '9'.toNat then some (c.toNat - '0'.toNat) else none

/-- A hex digit's value, in either case. -/
def hexDigit (c : Char) : Option Nat :=
  if 'A'.toNat ≤ c.toNat ∧ c.toNat ≤ 'F'.toNat then some (c.toNat - 'A'.toNat + 10)
  else if 'a'.toNat ≤ c.toNat ∧ c.toNat ≤ 'f'.toNat then some (c.toNat - 'a'.toNat + 10)
  else decDigit c

/-- Every character read as a digit; none if one is not a digit or there is none. -/
def digitList (digit : Char → Option Nat) (cs : List Char) : Option (List Nat) :=
  match cs with
  | [] => none
  | [c] => (digit c).map fun d => [d]
  | c :: rest => do
    let d ← digit c
    let ds ← digitList digit rest
    some (d :: ds)

def number (base : Nat) (ds : List Nat) : Nat := ds.foldl (fun n d => base * n + d) 0

/-- An integer operand: `0x` and hex digits, or decimal digits after an optional `-` (R45). -/
def intLit (cs : List Char) : Option IntLit :=
  match cs with
  | '0' :: 'x' :: ds => (digitList hexDigit ds).map fun l => .hex (number 16 l)
  | '-' :: ds => (digitList decDigit ds).map fun l => .dec true (number 10 l)
  | ds => (digitList decDigit ds).map fun l => .dec false (number 10 l)

/-- The part before the first `sep` and, if there is one, the part after it. -/
def cut (sep : Char) (cs : List Char) : List Char × Option (List Char) :=
  match cs with
  | [] => ([], none)
  | c :: rest => if c == sep then ([], some rest) else ((c :: (cut sep rest).1), (cut sep rest).2)

/-- Whole digits and, after a point, fraction digits (R46). -/
def unsignedSi (neg : Bool) (cs : List Char) : Option SiLit :=
  match cut '.' cs with
  | (w, none) => (digitList decDigit w).map fun l => { neg := neg, whole := number 10 l, digits := [] }
  | (w, some f) => do
    let l ← digitList decDigit w
    let d ← digitList decDigit f
    some { neg := neg, whole := number 10 l, digits := d }

def siLit (cs : List Char) : Option SiLit :=
  match cs with
  | '-' :: ds => unsignedSi true ds
  | ds => unsignedSi false ds

/-- `0xOO_PPPPPPPPPPPPPPPP`: 18 hex digits, an underscore after the first two (R34, R46). -/
def wordLit (cs : List Char) : Option Nat :=
  match cs with
  | '0' :: 'x' :: a :: b :: '_' :: ps =>
    if ps.length = 16 then (digitList hexDigit (a :: b :: ps)).map (number 16) else none
  | _ => none

/-- The line without its comment (R45). -/
def beforeComment (cs : List Char) : List Char := (cut ';' cs).1

def trimLeft (cs : List Char) : List Char := cs.dropWhile isBlank

def trim (cs : List Char) : List Char := (trimLeft (trimLeft cs).reverse).reverse

/-- The operands, separated by commas (R45). -/
def splitOperands (cs : List Char) : List (List Char) :=
  (cs.foldr (fun c acc =>
    if c == ',' then [] :: acc
    else match acc with
      | [] => [[c]]
      | x :: xs => (c :: x) :: xs) [[]]).map trim

/-- The operand list after a mnemonic: none written is the empty list. -/
def operands (cs : List Char) : List (List Char) := if trim cs = [] then [] else splitOperands cs

def sixBytes (mk : IntLit → IntLit → IntLit → IntLit → IntLit → IntLit → Line) (ops : List (List Char)) : Option Line :=
  match ops with
  | [a, b, c, d, e, f] => do
    let x0 ← intLit a
    let x1 ← intLit b
    let x2 ← intLit c
    let x3 ← intLit d
    let x4 ← intLit e
    let x5 ← intLit f
    some (mk x0 x1 x2 x3 x4 x5)
  | _ => none

def oneOperand (mk : IntLit → Line) (ops : List (List Char)) : Option Line :=
  match ops with
  | [a] => (intLit a).map mk
  | _ => none

def noOperand (l : Line) (ops : List (List Char)) : Option Line := if ops = [] then some l else none

def updateOperands (ops : List (List Char)) : Option Line :=
  match ops with
  | [a, t] => do
    let x ← intLit a
    let y ← intLit t
    some (.update x y)
  | _ => none

def siOperands (ops : List (List Char)) : Option Line :=
  match ops with
  | [a, t] => do
    let x ← siLit a
    let y ← siLit t
    some (.updateSi x y)
  | _ => none

def wordOperand (ops : List (List Char)) : Option Line :=
  match ops with
  | [w] => (wordLit w).map .word72
  | _ => none

/-- The forms of R45 and R46 by mnemonic. -/
def parseCommand (mn : List Char) (ops : List (List Char)) : Option Line :=
  if mn = "NOP".toList then noOperand .nop ops
  else if mn = "IDCHK".toList then oneOperand .idchk ops
  else if mn = "DECODE".toList then oneOperand .decode ops
  else if mn = "DECRAW".toList then oneOperand .decraw ops
  else if mn = "UPDATE".toList then updateOperands ops
  else if mn = "RESET".toList then noOperand .reset ops
  else if mn = "QUERY".toList then noOperand .query ops
  else if mn = "DECODE.B".toList then sixBytes .decodeB ops
  else if mn = "DECRAW.B".toList then sixBytes .decrawB ops
  else if mn = "UPDATE.SI".toList then siOperands ops
  else if mn = ".word72".toList then wordOperand ops
  else none

/-- What a source line gives. -/
inductive LineResult where
  /-- Nothing but blanks or a comment: legal and no word, by the model's choice (log 14). -/
  | empty
  /-- Exactly one command word (R46). -/
  | word (c : CmdWord)
  /-- An assembly error (R45, R46). -/
  | error
  deriving DecidableEq, Repr

/-- One source line (R45: one command per line, and a `;` starts a comment). That a line with nothing but blanks or a
comment is legal and gives no word is the model's choice: R45 does not say (log 14). -/
def assembleLine (cs : List Char) : LineResult :=
  let body := trim (beforeComment cs)
  if body = [] then .empty
  else
    match (parseCommand (body.takeWhile fun c => !isBlank c) (operands (body.dropWhile fun c => !isBlank c))).bind assemble with
    | some c => .word c
    | none => .error

end Sys2Proof.Asm
end

