-- ==== Sys2Proof/Machine/Driver.lean ====
section
/-! DEFINITION. The host's side as the spec states it: the sensor's register space (R23 to R26) and the host duties of
initialisation, sampling and the per-cycle copy (R62, R69, R70, R81, R82). The bus transport itself is the host's
(R5); what it answers is an argument here (log 13). -/

namespace Sys2Proof.Driver

open Sys2Proof.Machine

/-- The sensor's 7-bit bus identity (R23). -/
def busAddress : BitVec 7 := 0x68#7

/-- Identity register offset (R24). -/
def identityOffset : Byte := 0x75#8

/-- Power-management register offset (R25). -/
def powerOffset : Byte := 0x6B#8

/-- The wake value (R25). -/
def wakeValue : Byte := 0x00#8

/-- Acceleration block base offset (R26). -/
def accelBase : Byte := 0x3B#8

/-- The offset of byte `k` of the acceleration block (R26). -/
def accelOffset (k : Fin 6) : Byte := accelBase + BitVec.ofNat 8 k.val

/-- The two access shapes of the protocol: a 1-byte read or write, and a block read (R24, R25, R26, R28). -/
inductive BusAccess where
  | read (bytes : Nat)
  | write (value : Byte)
  deriving DecidableEq, Repr

/-- One bus transaction the host issues: the device, the register offset and the access (R23). How the address goes
onto the wire is the transport's (R23, U3). -/
structure BusTransaction where
  device : BitVec 7
  offset : Byte
  access : BusAccess
  deriving DecidableEq, Repr

/-- The identity read (R24). -/
def identityRead : BusTransaction := { device := busAddress, offset := identityOffset, access := .read 1 }

/-- The wake write (R25). -/
def wakeWrite : BusTransaction := { device := busAddress, offset := powerOffset, access := .write wakeValue }

/-- The single 6-byte block read (R26, R82). -/
def sampleRead : BusTransaction := { device := busAddress, offset := accelBase, access := .read 6 }

/-- The outcomes of `initialize()` (R69, R70, R81). -/
inductive InitOutcome where
  | deviceDetected | notDetected | transportFailure
  deriving DecidableEq, Repr

/-- What initialisation did: its outcome, the command it sent to the block, and the bus transactions it issued. -/
structure InitTrace where
  outcome : InitOutcome
  command : Option CmdWord
  bus     : List BusTransaction
  deriving DecidableEq, Repr

/-- R81, steps 2 to 5. `idRead` is the identity byte the bus returned, none if that read failed; `wakeAck` says whether
the wake write succeeds. -/
def initSensor (p : Params) (ovf : Bool) (idRead : Option Byte) (wakeAck : Bool) : InitTrace :=
  match idRead with
  | none => { outcome := .transportFailure, command := none, bus := [identityRead] }
  | some idb =>
    if (idchkResponse p ovf idb).status.det then
      { outcome := if wakeAck then .deviceDetected else .transportFailure
        command := some (encode (.idchk idb))
        bus := [identityRead, wakeWrite] }
    else { outcome := .notDetected, command := some (encode (.idchk idb)), bus := [identityRead] }

/-- The six bytes of one acceleration block, in block order (R26). -/
structure SampleBlock where
  xHigh : Byte
  xLow  : Byte
  yHigh : Byte
  yLow  : Byte
  zHigh : Byte
  zLow  : Byte
  deriving DecidableEq, Repr

/-- Which command the host sends with the bytes of a block: R82 lets it send either. -/
inductive SampleForm where
  | decode | decraw
  deriving DecidableEq, Repr

/-- The command that carries a block (R27, R82). -/
def sampleCommand (f : SampleForm) (b : SampleBlock) : Instr :=
  match f with
  | .decode => .decode b.xHigh b.xLow b.yHigh b.yLow b.zHigh b.zLow
  | .decraw => .decraw b.xHigh b.xLow b.yHigh b.yLow b.zHigh b.zLow

/-- The block's response to that command, which does not depend on the velocity registers (R18, R50, R51). -/
def sampleResponse (p : Params) (ovf : Bool) (f : SampleForm) (b : SampleBlock) : Response :=
  match f with
  | .decode => decodeResponse p ovf (raw16 b.xHigh b.xLow) (raw16 b.yHigh b.yLow) (raw16 b.zHigh b.zLow)
  | .decraw => decrawResponse ovf (raw16 b.xHigh b.xLow) (raw16 b.yHigh b.yLow) (raw16 b.zHigh b.zLow)

/-- What one call of sampling gives its caller (R82). -/
inductive SampleOutcome where
  /-- The block's response to the sample's bytes; its lanes are `{ax, ay, az}`. -/
  | sample (rsp : Response)
  /-- The block read failed. -/
  | transportFailure
  deriving DecidableEq, Repr

/-- What sampling did: its outcome, the command it sent to the block, and the bus transactions it issued. -/
structure SampleTrace where
  outcome : SampleOutcome
  command : Option CmdWord
  bus     : List BusTransaction
  deriving DecidableEq, Repr

/-- R82: one block read, and the command is sent when, and only when, it succeeds; a failed read is surfaced and not
retried here. `block` is what the bus returned, none if the read failed; `f` is the host's choice of command. -/
def readSample (p : Params) (ovf : Bool) (f : SampleForm) (block : Option SampleBlock) : SampleTrace :=
  match block with
  | none => { outcome := .transportFailure, command := none, bus := [sampleRead] }
  | some b =>
    { outcome := .sample (sampleResponse p ovf f b)
      command := some (encode (sampleCommand f b))
      bus := [sampleRead] }

/-- The axis the caller loop selects (R62). -/
inductive Axis where
  | X | Y | Z
  deriving DecidableEq, Repr

/-- The lane of a DECODE response for an axis (R41). -/
def Axis.lane (a : Axis) (r : Response) : Word32 :=
  match a with
  | .X => laneX r.result
  | .Y => laneY r.result
  | .Z => laneZ r.result

/-- R62: the host copies one result field of a DECODE into the `ACC` field of an UPDATE, with no conversion. -/
def integrateAxis (a : Axis) (r : Response) (dt : Word32) : Instr := .update (a.lane r) dt

end Sys2Proof.Driver
end

