-- ==== Sys2Proof/Machine/System.lean ====
section
/-! DEFINITION. A system of `N_INST` independent instances, each with its own private state (R74; log 12). -/

namespace Sys2Proof.Machine

/-- The instances of a system; a place in the list is the model's name for an instance, which has no identifier of its
own (R74). -/
abbrev System := List State

/-- Every instance leaves reset on its own, in its own reset state (R74, R78), with the parameters `ps` gives its place:
instances may differ in the parameters of R6 (R3). -/
def System.reset (ps : Nat → Params) : System :=
  (List.range Config.nInst).map fun k => { State.reset with params := ps k, place := k }

/-- One rising edge of instance `k`; a number that names no instance changes nothing. -/
def System.stepAt (k : Nat) (sys : System) : Host.Outcome System Fault Refusal :=
  match sys[k]? with
  | none => .next sys
  | some s =>
    match step s with
    | .next t => .next (sys.set k t)
    | .fault r => .fault r
    | .refused r => .refused r

end Sys2Proof.Machine
end

