-- ==== Sys2Proof/Safety.lean ====
section
/-! DEFINITION. The terms of the claims: what a safe run is, the invariants, and the source's real-valued integrator
as the abstract machine the block refines. -/

namespace Sys2Proof.Machine

/-- The spec lets this step go on: the instance is legal (R6, R7) and the host does not break the hold rule of R84. -/
def stepAllowed (s : State) : Prop :=
  paramsLegal s.params = true ∧ ∀ e rest, s.inputs = e :: rest → e.rst = true ∨ holdBroken e s = false

/-- `n` steps answer next states all the way. -/
def SafeRun (n : Nat) (s : State) : Prop := ∃ t, Sys2Proof.core.run n s = .next t

/-- A host that holds: from the command `held` on, each edge presents again what the edge before it presented, unless it
is a reset edge. This is more than R84 asks, since a host may move on once its command is accepted. -/
def HostHolds : Option CmdWord → List PortIn → Prop
  | _, [] => True
  | held, e :: rest =>
    (e.rst = true ∨ held = none ∨ (e.cmdValid = true ∧ held = some e.cmdData)) ∧
      HostHolds (if e.cmdValid then some e.cmdData else none) rest

/-- The command word accepted at the next edge, if one is (R84). -/
def acceptedWord (s : State) : Option CmdWord :=
  match s.inputs with
  | [] => none
  | e :: _ => if cmdReady e.rst s && e.cmdValid then some e.cmdData else none

/-- The next edge is a hardware reset (R78). -/
def resetEdge (s : State) : Bool :=
  match s.inputs with
  | [] => false
  | e :: _ => e.rst

/-- The two velocity registers agree (R15). -/
def VelocitiesAgree (s : State) : Prop := s.vel = s.lastVel

/-- What every response looks like: an error carries nothing (R67), a suppressed acceleration never saturates (R66), a
saturation has set `OVF` (R55, R68), and `DET` comes with an empty RESULT (R40, R49). -/
def Response.Consistent (r : Response) : Prop :=
  (r.status.code ≠ .ok → r.result = 0#128 ∧ r.status.dz = false ∧ r.status.sat = false ∧ r.status.det = false) ∧
  (r.status.dz = true → r.status.sat = false ∧ r.status.det = false) ∧
  (r.status.sat = true → r.status.ovf = true ∧ r.status.det = false) ∧
  (r.status.det = true → r.result = 0#128)

/-- The outstanding response is consistent, reports the `OVF` register as it is (R16, R40), and is at least one cycle
old at the next edge (R84). -/
def PendingInv (s : State) : Prop :=
  ∀ p, s.pending = some p → p.rsp.Consistent ∧ p.rsp.status.ovf = s.ovf ∧ 1 ≤ p.age

/-- Every response the host has taken is consistent. -/
def DeliveredInv (s : State) : Prop := ∀ r ∈ s.delivered, r.Consistent

/-- Every response the machine owes or has given is consistent (R16, R40, R66, R67, R84). -/
structure ResponseInv (s : State) : Prop where
  pending   : PendingInv s
  delivered : DeliveredInv s

/-- The responses owed to the host so far, oldest first: taken, then outstanding (R31). -/
def responsesInOrder (s : State) : List Response := s.delivered ++ (s.pending.map (·.rsp)).toList

/-- An input edge at which the host presents no command, takes no response and asserts no reset. -/
def QuietEdge (e : PortIn) : Prop := e.rst = false ∧ e.cmdValid = false ∧ e.rspReady = false

/-- The exact sum lies outside the signed 64-bit range (R16, R54). -/
def OutOfRange (n : Int) : Prop := n < -2 ^ 63 ∨ 2 ^ 63 - 1 < n

/-- The source's `update(acceleration, dt)` over unbounded numbers, in counts (R14, R53, R54): gate, then
`last_velocity + acceleration * dt`. -/
def sourceUpdate (dzUm : Nat) (v a dt : Int) : Int :=
  if -(dzUm : Int) < a ∧ a < (dzUm : Int) then v else v + a * dt

/-- What an accepted word does to the source's velocity. -/
def sourceVelocity (dzUm : Nat) (c : CmdWord) (v : Int) : Int :=
  match decodeWord c with
  | .ok (.update acc dt) => sourceUpdate dzUm v acc.toInt dt.toInt
  | .ok .reset => 0
  | .ok .nop => v
  | .ok (.idchk _) => v
  | .ok (.decode _ _ _ _ _ _) => v
  | .ok (.decraw _ _ _ _ _ _) => v
  | .ok .query => v
  | .error _ => v

/-- The source's velocity after the next edge. -/
def sourceNext (s : State) (v : Int) : Int :=
  if resetEdge s then 0
  else
    match acceptedWord s with
    | none => v
    | some c => sourceVelocity s.params.dzUm c v

/-- The block shows the source's velocity `v` exactly whenever no saturation has been recorded (R54, D5, D7). -/
def Tracks (v : Int) (s : State) : Prop :=
  VelocitiesAgree s ∧ (s.ovf = false → s.lastVel.toInt = v)

end Sys2Proof.Machine
end

