-- ==== Sys2Proof/Certificates/Slice0/Obligations.lean ====
section
/-! DEFINITION. The statements for the provers. Each is a claim about the machine for every state, word and operand its
hypotheses admit; the rule it comes from is named in its docstring and in OBLIGATIONS.json. -/

open Sys2Proof Sys2Proof.Machine

/-! Encoding. -/

/-- R36, R37, R45: the encoder writes a word of the opcode table's own row, and the decoder gives the instruction back
with every operand at every value. -/
def Obligations.DecodeOfEncodeIsTheInstruction : Prop :=
  ∀ i : Instr, decodeWord (encode i) = .ok i ∧ tableMnemonics (encode i) = [i.mnemonic]

/-- R37: each command has exactly one legal word for each value of its operand fields. -/
def Obligations.DecodedWordIsTheEncoding : Prop :=
  ∀ (c : CmdWord) (i : Instr), decodeWord c = .ok i → encode i = c

/-- R35, R37, R42: the decoder, written from the rules, accepts exactly the words that a row of
spec/opcode_table.json takes by its match and mask, and as the instruction of that one row. -/
def Obligations.DecoderAgreesWithOpcodeTable : Prop :=
  ∀ c : CmdWord,
    tableMnemonics c =
      match decodeWord c with
      | .ok i => [i.mnemonic]
      | .error _ => []

/-- R27, R34, R35, R36: words written out from the spec's encodings (95_test_vectors.md) decode to their commands. -/
def Obligations.WrittenOutWordsDecode : Prop :=
  decodeWord 0x000000000000000000#72 = .ok .nop ∧
  decodeWord 0x010000000000000068#72 = .ok (.idchk 0x68#8) ∧
  decodeWord 0x0200007FFF8000FFFF#72 = .ok (.decode 0x7F#8 0xFF#8 0x80#8 0x00#8 0xFF#8 0xFF#8) ∧
  decodeWord 0x03000000010200FE00#72 = .ok (.decraw 0x00#8 0x01#8 0x02#8 0x00#8 0xFE#8 0x00#8) ∧
  decodeWord 0x040007A120FFFE7960#72 = .ok (.update 0x0007A120#32 0xFFFE7960#32) ∧
  decodeWord 0x050000000000000000#72 = .ok .reset ∧
  decodeWord 0x060000000000000000#72 = .ok .query ∧
  decodeWord 0xFFFFFFFFFFFFFFFFFF#72 = .error .illegalOpcode ∧
  decodeWord 0x010000000000000168#72 = .error .reservedNonzero

/-! Words that do not execute. -/

/-- R64: an unassigned opcode, whatever the payload: no state written, `CODE = 0x1`, `RESULT = 0`. -/
def Obligations.UnassignedOpcodeIsIllegal : Prop :=
  ∀ (c : CmdWord) (s : State), 7 ≤ (c.extractLsb' 64 8).toNat →
    ∃ t, runCommand c s = .next t ∧
      t.pending.map (·.rsp) =
        some { status := { dz := false, sat := false, det := false, ovf := s.ovf, code := .illegalOpcode }, result := 0#128 } ∧
      t.vel = s.vel ∧ t.lastVel = s.lastVel ∧ t.ovf = s.ovf

/-- R65: an assigned opcode with a reserved payload bit of its format set (the RMASK table): no state written,
`CODE = 0x2`, `RESULT = 0`; and with no reserved bit set the word is not rejected. -/
def Obligations.ReservedBitIsRejected : Prop :=
  ∀ (c : CmdWord) (s : State) (mask : BitVec 64),
    ((c.extractLsb' 64 8 = 0#8 ∨ c.extractLsb' 64 8 = 5#8 ∨ c.extractLsb' 64 8 = 6#8) ∧ mask = 0xFFFFFFFFFFFFFFFF#64 ∨
      c.extractLsb' 64 8 = 1#8 ∧ mask = 0xFFFFFFFFFFFFFF00#64 ∨
      (c.extractLsb' 64 8 = 2#8 ∨ c.extractLsb' 64 8 = 3#8) ∧ mask = 0xFFFF000000000000#64 ∨
      c.extractLsb' 64 8 = 4#8 ∧ mask = 0x0000000000000000#64) →
    (c.extractLsb' 0 64 &&& mask ≠ 0#64 →
      ∃ t, runCommand c s = .next t ∧
        t.pending.map (·.rsp) =
          some { status := { dz := false, sat := false, det := false, ovf := s.ovf, code := .reservedNonzero }, result := 0#128 } ∧
        t.vel = s.vel ∧ t.lastVel = s.lastVel ∧ t.ovf = s.ovf) ∧
    (c.extractLsb' 0 64 &&& mask = 0#64 → ∃ i, decodeWord c = .ok i)

/-- R39, R63, R66: every one of the 2^72 command words, legal or not, gets exactly one response and the block goes on. -/
def Obligations.EveryWordGetsOneResponse : Prop :=
  ∀ (c : CmdWord) (s : State),
    ∃ t p, runCommand c s = .next t ∧ t.pending = some p ∧ t.delivered = s.delivered ∧ t.inputs = s.inputs ∧
      t.params = s.params ∧
      (p.rsp.status.code = .ok ↔ ∃ i, decodeWord c = .ok i) ∧
      p.rsp.toWord.extractLsb' 128 8 = p.rsp.status.toByte ∧ p.rsp.toWord.extractLsb' 0 128 = p.rsp.result

/-! The commands, each with its encoding, its effect and its errors. -/

/-- R61: NOP. -/
def Obligations.NopReportsOvfOnly : Prop :=
  encode .nop = 0x000000000000000000#72 ∧
  (∀ s : State, ∃ t, exec .nop s = .next t ∧
    t.pending.map (·.rsp) =
      some { status := { dz := false, sat := false, det := false, ovf := s.ovf, code := .ok }, result := 0#128 } ∧
    t.vel = s.vel ∧ t.lastVel = s.lastVel ∧ t.ovf = s.ovf) ∧
  (∀ c : CmdWord, c.extractLsb' 64 8 = 0x00#8 → c.extractLsb' 0 64 ≠ 0#64 → decodeWord c = .error .reservedNonzero)

/-- R49: IDCHK. The compare is on all 8 bits; with the default `IDENT` only 0x68 gives `DET = 1`. -/
def Obligations.IdchkComparesIdentity : Prop :=
  (∀ idb : Byte, (encode (.idchk idb)).extractLsb' 64 8 = 0x01#8 ∧ (encode (.idchk idb)).extractLsb' 8 56 = 0#56 ∧
    (encode (.idchk idb)).extractLsb' 0 8 = idb) ∧
  (∀ (idb : Byte) (s : State), ∃ t, exec (.idchk idb) s = .next t ∧
    t.pending.map (·.rsp) =
      some { status := { dz := false, sat := false, det := decide (idb = s.params.ident), ovf := s.ovf, code := .ok },
             result := 0#128 } ∧
    t.vel = s.vel ∧ t.lastVel = s.lastVel ∧ t.ovf = s.ovf) ∧
  (∀ c : CmdWord, c.extractLsb' 64 8 = 0x01#8 → c.extractLsb' 8 56 ≠ 0#56 → decodeWord c = .error .reservedNonzero) ∧
  (∀ c : CmdWord, c.extractLsb' 64 8 = 0x01#8 → c.extractLsb' 8 56 = 0#56 →
    decodeWord c = .ok (.idchk (c.extractLsb' 0 8))) ∧
  Params.default.ident = 0x68#8

/-- R50: DECODE on a legal instance: each lane of RESULT, read as a signed 32-bit number, is `conv` of its own two
bytes' raw word; no register is written. -/
def Obligations.DecodeGivesPhysicalUnits : Prop :=
  (∀ (b0 b1 b2 b3 b4 b5 : Byte) (s : State), paramsLegal s.params = true →
    ∃ t p, exec (.decode b0 b1 b2 b3 b4 b5) s = .next t ∧ t.pending = some p ∧
      p.rsp.status = { dz := false, sat := false, det := false, ovf := s.ovf, code := .ok } ∧
      p.rsp.result.extractLsb' 96 32 = 0#32 ∧
      (p.rsp.result.extractLsb' 64 32).toInt = conv s.params (raw16 b0 b1) ∧
      (p.rsp.result.extractLsb' 32 32).toInt = conv s.params (raw16 b2 b3) ∧
      (p.rsp.result.extractLsb' 0 32).toInt = conv s.params (raw16 b4 b5) ∧
      t.vel = s.vel ∧ t.lastVel = s.lastVel ∧ t.ovf = s.ovf) ∧
  (∀ c : CmdWord, c.extractLsb' 64 8 = 0x02#8 → c.extractLsb' 48 16 ≠ 0#16 → decodeWord c = .error .reservedNonzero) ∧
  (∀ c : CmdWord, c.extractLsb' 64 8 = 0x02#8 → c.extractLsb' 48 16 = 0#16 →
    decodeWord c = .ok (.decode (c.extractLsb' 40 8) (c.extractLsb' 32 8) (c.extractLsb' 24 8) (c.extractLsb' 16 8)
      (c.extractLsb' 8 8) (c.extractLsb' 0 8))) ∧
  conv Params.default 0 = 0 ∧ conv Params.default 32767 = 19619401 ∧ conv Params.default (-32768) = -19620000 ∧
  conv Params.default 1 = 599 ∧ conv Params.default (-1) = -599 ∧ conv Params.default 512 = 306563 ∧
  conv Params.default (-512) = -306563 ∧ conv Params.default 4096 = 2452500

/-- R51: DECRAW: each lane, read as a signed 32-bit number, is its own two bytes' raw word; no register is written. -/
def Obligations.DecrawGivesRawWords : Prop :=
  (∀ (b0 b1 b2 b3 b4 b5 : Byte) (s : State),
    ∃ t p, exec (.decraw b0 b1 b2 b3 b4 b5) s = .next t ∧ t.pending = some p ∧
      p.rsp.status = { dz := false, sat := false, det := false, ovf := s.ovf, code := .ok } ∧
      p.rsp.result.extractLsb' 96 32 = 0#32 ∧
      (p.rsp.result.extractLsb' 64 32).toInt = raw16 b0 b1 ∧
      (p.rsp.result.extractLsb' 32 32).toInt = raw16 b2 b3 ∧
      (p.rsp.result.extractLsb' 0 32).toInt = raw16 b4 b5 ∧
      t.vel = s.vel ∧ t.lastVel = s.lastVel ∧ t.ovf = s.ovf) ∧
  (∀ c : CmdWord, c.extractLsb' 64 8 = 0x03#8 → c.extractLsb' 48 16 ≠ 0#16 → decodeWord c = .error .reservedNonzero) ∧
  (∀ c : CmdWord, c.extractLsb' 64 8 = 0x03#8 → c.extractLsb' 48 16 = 0#16 →
    decodeWord c = .ok (.decraw (c.extractLsb' 40 8) (c.extractLsb' 32 8) (c.extractLsb' 24 8) (c.extractLsb' 16 8)
      (c.extractLsb' 8 8) (c.extractLsb' 0 8)))

/-- R55: UPDATE, over the exact numbers of R53 and R54: both velocity registers take the clamped sum, `OVF` is set by a
saturation and never cleared, the response reports the gate, the saturation and the new registers. No word with this
opcode is rejected. -/
def Obligations.UpdateIntegratesOneStep : Prop :=
  (∀ (acc dt : Word32) (s : State) (a aEff sum v : Int),
    a = acc.toInt →
    aEff = (if -(s.params.dzUm : Int) < a ∧ a < (s.params.dzUm : Int) then 0 else a) →
    sum = s.lastVel.toInt + aEff * dt.toInt →
    v = (if sum > 2 ^ 63 - 1 then 2 ^ 63 - 1 else if sum < -2 ^ 63 then -2 ^ 63 else sum) →
    ∃ t, exec (.update acc dt) s = .next t ∧
      t.vel.toInt = v ∧ t.lastVel = t.vel ∧ t.ovf = (s.ovf || decide (v ≠ sum)) ∧
      t.pending.map (·.rsp) =
        some { status := { dz := decide (-(s.params.dzUm : Int) < a ∧ a < (s.params.dzUm : Int)), sat := decide (v ≠ sum),
                           det := false, ovf := t.ovf, code := .ok },
               result := t.lastVel ++ t.vel }) ∧
  (∀ c : CmdWord, c.extractLsb' 64 8 = 0x04#8 → decodeWord c = .ok (.update (c.extractLsb' 32 32) (c.extractLsb' 0 32)))

/-- R56: RESET zeroes the integrator and clears `OVF`; with a reserved bit set nothing is cleared; two RESETs leave the
registers of one. -/
def Obligations.ResetZeroesTheIntegrator : Prop :=
  encode .reset = 0x050000000000000000#72 ∧
  (∀ s : State, ∃ t, exec .reset s = .next t ∧ t.vel = 0#64 ∧ t.lastVel = 0#64 ∧ t.ovf = false ∧
    t.pending.map (·.rsp) =
      some { status := { dz := false, sat := false, det := false, ovf := false, code := .ok }, result := 0#128 } ∧
    ∃ u, exec .reset t = .next u ∧ u.vel = t.vel ∧ u.lastVel = t.lastVel ∧ u.ovf = t.ovf) ∧
  (∀ (c : CmdWord) (s : State), c.extractLsb' 64 8 = 0x05#8 → c.extractLsb' 0 64 ≠ 0#64 →
    ∃ t, runCommand c s = .next t ∧ t.vel = s.vel ∧ t.lastVel = s.lastVel ∧ t.ovf = s.ovf ∧
      t.pending.map (·.rsp.status.code) = some .reservedNonzero)

/-- R57: QUERY returns both velocity registers and `OVF` and changes none of them. -/
def Obligations.QueryReadsTheIntegrator : Prop :=
  encode .query = 0x060000000000000000#72 ∧
  (∀ s : State, ∃ t, exec .query s = .next t ∧
    t.pending.map (·.rsp) =
      some { status := { dz := false, sat := false, det := false, ovf := s.ovf, code := .ok }, result := s.lastVel ++ s.vel } ∧
    t.vel = s.vel ∧ t.lastVel = s.lastVel ∧ t.ovf = s.ovf) ∧
  (∀ c : CmdWord, c.extractLsb' 64 8 = 0x06#8 → c.extractLsb' 0 64 ≠ 0#64 → decodeWord c = .error .reservedNonzero)

/-! The number functions. -/

/-- R47: two's-complement decode of one axis, and its corner cases. -/
def Obligations.RawWordIsTwosComplement : Prop :=
  (∀ hi lo : Byte,
    raw16 hi lo =
      (if hi.getLsbD 7 then 256 * (hi.toNat : Int) + lo.toNat - 65536 else 256 * (hi.toNat : Int) + lo.toNat) ∧
    -32768 ≤ raw16 hi lo ∧ raw16 hi lo ≤ 32767) ∧
  raw16 0x7F#8 0xFF#8 = 32767 ∧ raw16 0x80#8 0x00#8 = -32768 ∧ raw16 0xFF#8 0xFF#8 = -1 ∧ raw16 0xF0#8 0x00#8 = -4096

/-- R48: `conv` rounds the exact `r * GRAV_UM / SENS` once, to the nearest count, ties away from zero; with the default
parameters it is `round_half_away(r * 613125, 1024)`. -/
def Obligations.ConvRoundsToNearestTiesAway : Prop :=
  (∀ (p : Params) (r : Int), conv p r = roundHalfAway (r * p.gravUm) p.sens) ∧
  (∀ (p : Params) (r : Int), 1 ≤ p.sens →
    2 * |conv p r * p.sens - r * p.gravUm| ≤ p.sens ∧
    (2 * |conv p r * p.sens - r * p.gravUm| = p.sens → |r * p.gravUm| < |conv p r * p.sens|)) ∧
  ∀ r : Int, conv Params.default r = roundHalfAway (r * 613125) 1024

/-- R6, R7: under the parameter constraint every decoded axis fits in a signed 32-bit field, which R7 itself marks as
derived; the defaults are legal and their largest magnitude is 19620000. That a legal instance is R6's type column with
R7's constraint is log 2 (DEDUCED). -/
def Obligations.LegalParamsMakeDecodeFit : Prop :=
  (∀ p : Params, paramsLegal p = true ↔
    1 ≤ p.sens ∧ p.dzUm ≤ 2 ^ 31 - 1 ∧ 2 * 32768 * p.gravUm + p.sens < 2 ^ 32 * p.sens) ∧
  (∀ (p : Params) (hi lo : Byte), paramsLegal p = true →
    -(2 ^ 31 - 1) ≤ conv p (raw16 hi lo) ∧ conv p (raw16 hi lo) ≤ 2 ^ 31 - 1) ∧
  paramsLegal Params.default = true ∧
  (∀ hi lo : Byte, |conv Params.default (raw16 hi lo)| ≤ 19620000) ∧ |conv Params.default (-32768)| = 19620000

/-- R52: with the default parameters the decode is odd, strictly increasing, exact exactly at the multiples of 1024, a
tie (rounded away from zero) exactly at `r mod 1024 = 512`, and inside the deadzone exactly for `|r| <= 83`. -/
def Obligations.DefaultDecodeProperties : Prop :=
  (∀ r : Int, -32767 ≤ r → r ≤ 32767 → conv Params.default (-r) = -conv Params.default r) ∧
  (∀ r r' : Int, -32768 ≤ r → r < r' → r' ≤ 32767 → conv Params.default r < conv Params.default r') ∧
  (∀ r : Int, -32768 ≤ r → r ≤ 32767 → (conv Params.default r * 16384 = r * 9810000 ↔ r % 1024 = 0)) ∧
  (∀ r : Int, -32768 ≤ r → r ≤ 32767 →
    (2 * |conv Params.default r * 16384 - r * 9810000| = 16384 ↔ r % 1024 = 512)) ∧
  (∀ r : Int, -32768 ≤ r → r ≤ 32767 →
    ((-50000 < conv Params.default r ∧ conv Params.default r < 50000) ↔ |r| ≤ 83)) ∧
  conv Params.default 83 = 49697 ∧ conv Params.default 84 = 50295

/-- R53: the deadzone is an open interval; its bounds pass, 0 is inside when `DZ_UM >= 1`, `DZ_UM = 0` suppresses
nothing, and the default suppresses exactly -49999 .. 49999. -/
def Obligations.DeadzoneIsOpenInterval : Prop :=
  (∀ (p : Params) (a : Int),
    (-(p.dzUm : Int) < a ∧ a < (p.dzUm : Int) → effAccel p a = 0 ∧ dzFlag p a = true) ∧
    (¬(-(p.dzUm : Int) < a ∧ a < (p.dzUm : Int)) → effAccel p a = a ∧ dzFlag p a = false)) ∧
  (∀ p : Params, dzFlag p (p.dzUm : Int) = false ∧ dzFlag p (-(p.dzUm : Int)) = false) ∧
  (∀ p : Params, 1 ≤ p.dzUm → dzFlag p 0 = true) ∧
  (∀ (p : Params) (a : Int), p.dzUm = 0 → dzFlag p a = false) ∧
  (∀ a : Int, dzFlag Params.default a = true ↔ -49999 ≤ a ∧ a ≤ 49999)

/-- R54: the product and the sum are exact and bounded; the clamp and its flag depart from the sum exactly when it
leaves the signed 64-bit range, to the nearer end. -/
def Obligations.RecurrenceIsExactOrClamped : Prop :=
  ∀ (p : Params) (acc dt : Word32) (last : Word64) (prod sum : Int),
    prod = effAccel p acc.toInt * dt.toInt → sum = exactSum (effAccel p acc.toInt) dt.toInt last →
    |prod| ≤ 2 ^ 62 ∧ sum = last.toInt + prod ∧ -2 ^ 63 - 2 ^ 62 ≤ sum ∧ sum ≤ 2 ^ 63 - 1 + 2 ^ 62 ∧
    (satFlag (sat64 sum) sum = false → sat64 sum = sum) ∧
    (satFlag (sat64 sum) sum = true ↔ OutOfRange sum) ∧
    (2 ^ 63 - 1 < sum → sat64 sum = 2 ^ 63 - 1) ∧ (sum < -2 ^ 63 → sat64 sum = -2 ^ 63) ∧
    (bits 64 (sat64 sum)).toInt = sat64 sum

/-! Consequences for the integrator. -/

/-- R55 (corner cases), R66: a suppressed acceleration, or `dt = 0`, changes neither velocity (where the two agree) nor
`OVF` and does not saturate; `DZ = 1` implies `SAT = 0`. -/
def Obligations.SuppressedUpdateChangesNothing : Prop :=
  ∀ (acc dt : Word32) (s : State), VelocitiesAgree s →
    (-(s.params.dzUm : Int) < acc.toInt ∧ acc.toInt < (s.params.dzUm : Int)) ∨ acc = 0#32 ∨ dt = 0#32 →
    ∃ t, exec (.update acc dt) s = .next t ∧ t.vel = s.vel ∧ t.lastVel = s.lastVel ∧ t.ovf = s.ovf ∧
      t.pending.map (·.rsp.status.sat) = some false

/-- R59: a negative `dt` is computed by the recurrence: where neither update saturates, negating `dt` reverses the sign of
the contribution. -/
def Obligations.NegativeTimeStepReversesSign : Prop :=
  ∀ (acc dt dt' : Word32) (s t t' : State), dt'.toInt = -dt.toInt →
    exec (.update acc dt) s = .next t → exec (.update acc dt') s = .next t' → t.ovf = false → t'.ovf = false →
    t'.vel.toInt - s.lastVel.toInt = -(t.vel.toInt - s.lastVel.toInt)

/-- R58: after RESET, an UPDATE with a suppressed acceleration or `dt = 0` returns exactly zero, whatever came before. -/
def Obligations.UpdateAfterResetStaysZero : Prop :=
  ∀ (acc dt : Word32) (s : State),
    (-(s.params.dzUm : Int) < acc.toInt ∧ acc.toInt < (s.params.dzUm : Int)) ∨ acc = 0#32 ∨ dt = 0#32 →
    ∃ t u, exec .reset s = .next t ∧ exec (.update acc dt) t = .next u ∧ u.vel = 0#64 ∧ u.lastVel = 0#64 ∧
      u.ovf = false ∧ u.pending.map (·.rsp.result) = some 0#128

/-- R16: `OVF` is sticky. UPDATE sets it exactly when its exact sum lies outside the signed 64-bit range, no command
clears it except RESET, hardware reset clears it, and every response, an error's included, copies its value at the end
of the command into `STATUS[4]`. -/
def Obligations.OvfIsSticky : Prop :=
  (∀ (i : Instr) (s t : State), exec i s = .next t → i ≠ .reset → s.ovf = true → t.ovf = true) ∧
  (∀ (acc dt : Word32) (s t : State), exec (.update acc dt) s = .next t → s.ovf = false →
    (t.ovf = true ↔ OutOfRange (s.lastVel.toInt + effAccel s.params acc.toInt * dt.toInt))) ∧
  (∀ (i : Instr) (s t : State), exec i s = .next t → s.ovf = false → t.ovf = true → ∃ acc dt, i = .update acc dt) ∧
  (∀ s t : State, exec .reset s = .next t → t.ovf = false) ∧
  (∀ (s t : State), resetEdge s = true → step s = .next t → t.ovf = false) ∧
  (∀ (c : CmdWord) (s t : State) (p : Pending), runCommand c s = .next t → t.pending = some p →
    p.rsp.status.toByte.getLsbD 4 = t.ovf)

/-- R40: the fields of the STATUS byte, and when each is 1. -/
def Obligations.StatusByteFields : Prop :=
  (∀ st : Status,
    st.toByte.getLsbD 4 = st.ovf ∧ st.toByte.getLsbD 5 = st.det ∧ st.toByte.getLsbD 6 = st.sat ∧
    st.toByte.getLsbD 7 = st.dz ∧
    st.toByte.extractLsb' 0 4 =
      (match st.code with
        | .ok => 0x0#4
        | .illegalOpcode => 0x1#4
        | .reservedNonzero => 0x2#4)) ∧
  ∀ (c : CmdWord) (s t : State) (p : Pending), runCommand c s = .next t → t.pending = some p →
    p.rsp.status.ovf = t.ovf ∧
    (p.rsp.status.det = true ↔ ∃ idb, decodeWord c = .ok (.idchk idb) ∧ idb = s.params.ident) ∧
    (p.rsp.status.sat = true ↔ ∃ acc dt, decodeWord c = .ok (.update acc dt) ∧
      OutOfRange (s.lastVel.toInt + effAccel s.params acc.toInt * dt.toInt)) ∧
    (p.rsp.status.dz = true ↔ ∃ acc dt, decodeWord c = .ok (.update acc dt) ∧
      -(s.params.dzUm : Int) < acc.toInt ∧ acc.toInt < (s.params.dzUm : Int))

/-- R41: the layout of RESULT by command, with the registers read at the end of the command. -/
def Obligations.ResultLayoutByCommand : Prop :=
  ∀ (c : CmdWord) (s t : State) (p : Pending), runCommand c s = .next t → t.pending = some p →
    match decodeWord c with
    | .error _ => p.rsp.result = 0#128
    | .ok .nop => p.rsp.result = 0#128
    | .ok (.idchk _) => p.rsp.result = 0#128
    | .ok .reset => p.rsp.result = 0#128
    | .ok (.decode b0 b1 b2 b3 b4 b5) =>
      p.rsp.result.extractLsb' 96 32 = 0#32 ∧
      p.rsp.result.extractLsb' 64 32 = BitVec.ofInt 32 (conv s.params (raw16 b0 b1)) ∧
      p.rsp.result.extractLsb' 32 32 = BitVec.ofInt 32 (conv s.params (raw16 b2 b3)) ∧
      p.rsp.result.extractLsb' 0 32 = BitVec.ofInt 32 (conv s.params (raw16 b4 b5))
    | .ok (.decraw b0 b1 b2 b3 b4 b5) =>
      p.rsp.result.extractLsb' 96 32 = 0#32 ∧
      p.rsp.result.extractLsb' 64 32 = (b0 ++ b1 : BitVec 16).signExtend 32 ∧
      p.rsp.result.extractLsb' 32 32 = (b2 ++ b3 : BitVec 16).signExtend 32 ∧
      p.rsp.result.extractLsb' 0 32 = (b4 ++ b5 : BitVec 16).signExtend 32
    | .ok (.update _ _) => p.rsp.result.extractLsb' 64 64 = t.lastVel ∧ p.rsp.result.extractLsb' 0 64 = t.vel
    | .ok .query => p.rsp.result.extractLsb' 64 64 = t.lastVel ∧ p.rsp.result.extractLsb' 0 64 = t.vel

/-! Frames. -/

/-- R49 to R51, R57, R61 ("State written: none"): NOP, IDCHK, DECODE, DECRAW and QUERY change nothing but the port's
outstanding response and the model's count of accepted commands (log 9). -/
def Obligations.ReadOnlyCommandsFrame : Prop :=
  ∀ (i : Instr) (s t : State), exec i s = .next t →
    i = .nop ∨ (∃ b, i = .idchk b) ∨ (∃ b0 b1 b2 b3 b4 b5, i = .decode b0 b1 b2 b3 b4 b5) ∨
      (∃ b0 b1 b2 b3 b4 b5, i = .decraw b0 b1 b2 b3 b4 b5) ∨ i = .query →
    { t with pending := s.pending, accepted := s.accepted } = s ∧ t.accepted = s.accepted + 1

/-- R55, R56 ("State written"): UPDATE and RESET write `VEL`, `LAST_VEL`, `OVF` and nothing else but the port's
outstanding response and the model's count of accepted commands (log 9). -/
def Obligations.IntegratorCommandsFrame : Prop :=
  ∀ (i : Instr) (s t : State), exec i s = .next t → i = .reset ∨ (∃ acc dt, i = .update acc dt) →
    { t with vel := s.vel, lastVel := s.lastVel, ovf := s.ovf, pending := s.pending, accepted := s.accepted } = s ∧
      t.accepted = s.accepted + 1

/-! One step. -/

/-- R66, R84: at an edge where a command is accepted and its word decodes to `i`, the step is exec of `i`, with the edge
used up and no command stalled. That a word presented on a free port is accepted at that edge is log 3 (DEDUCED), that
its writes happen there is log 5, and the port around exec is the model's (logs 6 and 7). -/
def Obligations.StepRunsDecodedCommand : Prop :=
  ∀ (s : State) (e : PortIn) (rest : List PortIn) (i : Instr), paramsLegal s.params = true → s.inputs = e :: rest →
    e.rst = false → e.cmdValid = true → s.pending = none → (s.held = none ∨ s.held = some e.cmdData) →
    decodeWord e.cmdData = .ok i → step s = exec i { s with inputs := rest, held := none }

/-- R66, R67, R84: at an edge where a rejected word is accepted, the step answers the error response and writes no
register. That a word presented on a free port is accepted at that very edge is log 3 (DEDUCED, unsafe for claims about
the edge of acceptance); the port's bookkeeping is the model's (logs 4, 6, 7, 9). -/
def Obligations.StepAnswersRejectedWord : Prop :=
  ∀ (s : State) (e : PortIn) (rest : List PortIn) (err : DecodeError), paramsLegal s.params = true →
    s.inputs = e :: rest → e.rst = false → e.cmdValid = true → s.pending = none →
    (s.held = none ∨ s.held = some e.cmdData) → decodeWord e.cmdData = .error err →
    step s = .next
      { s with
        inputs := rest
        held := none
        pending := some
          { rsp :=
              { status :=
                  { dz := false, sat := false, det := false, ovf := s.ovf
                    code := match err with
                      | .illegalOpcode => .illegalOpcode
                      | .reservedNonzero => .reservedNonzero }
                result := 0#128 }
            age := 1 }
        accepted := s.accepted + 1 }

/-- The model's interface (log 8): a table word presented on the free port is the instruction the next step runs. -/
def Obligations.FetchWordRunsNext : Prop :=
  ∀ (s : State) (w : Nat) (i : Instr), paramsLegal s.params = true → decodeTableWord 72 w = some i →
    step (s.withFetchWord 72 w) = exec i (freePort s)

/-- R66 (total dispatch) with spec/93 I9 and I10: a step answers a next state exactly when the instance is legal and the
host holds a stalled command; otherwise it refuses, and it never faults. -/
def Obligations.StepAnswersUnlessHostOrInstanceIllegal : Prop :=
  ∀ s : State, (stepAllowed s → ∃ t, step s = .next t) ∧
    (¬stepAllowed s → step s = .refused .illegalParameters ∨ step s = .refused .commandNotHeld)

/-- R84 with spec/93 I9: a host that keeps presenting a command it has presented, until a reset, is never refused: every
run of a legal instance under it goes on. -/
def Obligations.HoldingHostIsNeverRefused : Prop :=
  ∀ (n : Nat) (s : State), paramsLegal s.params = true → HostHolds s.held s.inputs → SafeRun n s

/-- R13, R14, R16: only hardware reset and an accepted UPDATE or RESET write `VEL`, `LAST_VEL` or `OVF`. That the step
which changes a register is the one that accepts the command is log 5 (DESIGN CHOICE, unsafe before the response): R84
says only that the writes are complete by the time the response is valid. The edge of acceptance is log 3. -/
def Obligations.OnlyUpdateAndResetsWriteRegisters : Prop :=
  ∀ s t : State, step s = .next t → (t.vel ≠ s.vel ∨ t.lastVel ≠ s.lastVel ∨ t.ovf ≠ s.ovf) →
    resetEdge s = true ∨
      ∃ c, acceptedWord s = some c ∧ ((∃ acc dt, decodeWord c = .ok (.update acc dt)) ∨ decodeWord c = .ok .reset)

/-- R6, R78: no command and no reset changes the elaboration parameters (held in State by the model's choice, log 1), nor
the place that keys the instance's `LAT` (log 4). -/
def Obligations.StepNeverChangesParams : Prop :=
  ∀ s t : State, step s = .next t → t.params = s.params ∧ t.place = s.place

/-! Reset. -/

/-- R12, R77, R78: what reset leaves: the three registers zero, nothing outstanding, the parameters at this hardware's
values (R6). -/
def Obligations.ResetStateIsZeroed : Prop :=
  State.reset.vel = 0#64 ∧ State.reset.lastVel = 0#64 ∧ State.reset.ovf = false ∧ State.reset.pending = none ∧
  State.reset.params = { sens := 16384, gravUm := 9810000, dzUm := 50000, ident := 0x68#8 }

/-- R78, R79: an edge with `rst` asserted, whatever else is on the port: the registers are zeroed, an outstanding
command is discarded with its response, none is accepted and none delivered, and the parameters stay. -/
def Obligations.HardwareResetEdge : Prop :=
  ∀ (s : State) (e : PortIn) (rest : List PortIn), paramsLegal s.params = true → s.inputs = e :: rest → e.rst = true →
    cmdReady e.rst s = false ∧ rspValid e.rst s = false ∧
    ∃ t, step s = .next t ∧ t.vel = 0#64 ∧ t.lastVel = 0#64 ∧ t.ovf = false ∧ t.pending = none ∧
      t.params = s.params ∧ t.delivered = s.delivered ∧ t.accepted = s.accepted ∧ t.inputs = rest

/-- R79: when hardware reset arrives before an accepted command's response was taken, no later step can tell whether the
command's writes happened: the states after reset are the same but for the model's own count (log 9). -/
def Obligations.AbortedCommandUnobservable : Prop :=
  ∀ (i : Instr) (s done : State), resetEdge s = true → paramsLegal s.params = true → exec i s = .next done →
    ∃ t t', step s = .next t ∧ step done = .next t' ∧ { t' with accepted := t.accepted } = t

/-- R77: hardware reset and the RESET command leave the same registers; hardware reset clears the port, and RESET itself
is owed a response. -/
def Obligations.BothResetsLeaveSameRegisters : Prop :=
  ∀ s : State, ∃ t, exec .reset s = .next t ∧
    t.vel = (hardwareReset s).vel ∧ t.lastVel = (hardwareReset s).lastVel ∧ t.ovf = (hardwareReset s).ovf ∧
    (hardwareReset s).vel = 0#64 ∧ (hardwareReset s).lastVel = 0#64 ∧ (hardwareReset s).ovf = false ∧
    (hardwareReset s).pending = none ∧ t.pending.isSome = true

/-! Invariants, and the source's integrator. -/

/-- The invariants hold at reset; that no response has been delivered there is the model's choice (log 9). -/
def Obligations.ResponseInvAtReset : Prop := ResponseInv State.reset ∧ VelocitiesAgree State.reset

/-- R15: every step keeps `VEL = LAST_VEL`, and so does every command on its own. -/
def Obligations.StepKeepsVelocitiesEqual : Prop :=
  (∀ s t : State, VelocitiesAgree s → step s = .next t → VelocitiesAgree t) ∧
  (∀ (i : Instr) (s t : State), VelocitiesAgree s → exec i s = .next t → VelocitiesAgree t)

/-- R16, R40, R66, R67: every step keeps the invariant that an error response carries nothing, `DZ = 1` implies
`SAT = 0`, `SAT = 1` implies `OVF = 1`, and the outstanding response reports the `OVF` register as it is. That it reports
the register from acceptance on, before it is valid, is log 5 (DESIGN CHOICE, unsafe there), since R16 and R40 speak of
the end of the command; that it is at least one cycle old is log 4, and the list of delivered responses is log 9. -/
def Obligations.StepKeepsResponsesConsistent : Prop :=
  ∀ s t : State, ResponseInv s → step s = .next t → ResponseInv t

/-- R14, R53 to R56, with decisions D5 and D7: the block refines the source's real-valued integrator. Whatever the host
does, as long as no saturation is recorded in `OVF`, both velocity registers hold exactly the source's unbounded
velocity; hardware reset and RESET restart both. That the registers hold the source's next velocity right after the
accepting edge is log 5 (DESIGN CHOICE, unsafe before the response): R84 leaves the moment open. The edge of acceptance
is log 3. -/
def Obligations.BlockRefinesSourceIntegrator : Prop :=
  ∀ (s t : State) (v : Int), Tracks v s → step s = .next t → Tracks (sourceNext s v) t

/-! What a command's effect depends on. -/

/-- R33: a command's effect depends only on its own word, the parameters and the three registers: two states that agree
on those answer the same response and leave the same registers. -/
def Obligations.EffectDependsOnWordAndRegisters : Prop :=
  ∀ (c : CmdWord) (s s' t t' : State), s.params = s'.params → s.vel = s'.vel → s.lastVel = s'.lastVel → s.ovf = s'.ovf →
    runCommand c s = .next t → runCommand c s' = .next t' →
    t.pending = t'.pending ∧ t.vel = t'.vel ∧ t.lastVel = t'.lastVel ∧ t.ovf = t'.ovf ∧ t.params = t'.params

/-- R18: the decoder part has no state: IDCHK, DECODE and DECRAW answer the same in any two states that agree on the
parameters and on `OVF`, which every response copies. -/
def Obligations.DecoderIgnoresVelocity : Prop :=
  ∀ (i : Instr) (s s' t t' : State),
    (∃ b, i = .idchk b) ∨ (∃ b0 b1 b2 b3 b4 b5, i = .decode b0 b1 b2 b3 b4 b5) ∨
      (∃ b0 b1 b2 b3 b4 b5, i = .decraw b0 b1 b2 b3 b4 b5) →
    s.params = s'.params → s.ovf = s'.ovf → exec i s = .next t → exec i s' = .next t' → t.pending = t'.pending

/-- R50: the three lanes of DECODE are independent: each depends only on its own two bytes. -/
def Obligations.DecodeLanesAreIndependent : Prop :=
  ∀ (b0 b1 b2 b3 b4 b5 c0 c1 c2 c3 c4 c5 : Byte) (s : State),
    ∃ t u p q, exec (.decode b0 b1 b2 b3 b4 b5) s = .next t ∧ exec (.decode c0 c1 c2 c3 c4 c5) s = .next u ∧
      t.pending = some p ∧ u.pending = some q ∧
      (b0 = c0 → b1 = c1 → laneX p.rsp.result = laneX q.rsp.result) ∧
      (b2 = c2 → b3 = c3 → laneY p.rsp.result = laneY q.rsp.result) ∧
      (b4 = c4 → b5 = c5 → laneZ p.rsp.result = laneZ q.rsp.result)

/-! The port. -/

/-- R84: from acceptance until its response has been taken `cmd_ready = 0`: a step with a command outstanding and no
reset accepts nothing. That such a step writes no register is log 5 (writes at acceptance, DESIGN CHOICE): R84 says only
that the writes are complete by the time the response is valid. The count of accepted commands is log 9. -/
def Obligations.AtMostOneCommandOutstanding : Prop :=
  ∀ (s t : State) (p : Pending), s.pending = some p → resetEdge s = false → step s = .next t →
    cmdReady false s = false ∧ acceptedWord s = none ∧ t.accepted = s.accepted ∧ t.vel = s.vel ∧ t.lastVel = s.lastVel ∧
      t.ovf = s.ovf

/-- R31, R84: responses come back in command order, one per command: without a reset, a step that accepts a command adds
exactly its one response to the end of those owed, and any other step leaves that sequence as it is. The edge of
acceptance is log 3, and the list and the count are the model's (log 9). -/
def Obligations.ResponsesComeBackInOrder : Prop :=
  ∀ s t : State, resetEdge s = false → step s = .next t →
    (acceptedWord s = none → responsesInOrder t = responsesInOrder s ∧ t.accepted = s.accepted) ∧
    (∀ c, acceptedWord s = some c →
      ∃ r, responsesInOrder t = responsesInOrder s ++ [r] ∧ t.pending.map (·.rsp) = some r ∧
        t.accepted = s.accepted + 1)

/-- R84: a valid response stays valid and stable until an edge with `rsp_ready = 1`, which takes it and delivers it. -/
def Obligations.ValidResponseStableUntilTaken : Prop :=
  ∀ (s t : State) (e : PortIn) (rest : List PortIn), s.inputs = e :: rest → e.rst = false → rspValid false s = true →
    step s = .next t →
    (e.rspReady = false → rspValid false t = true ∧ rspData false t = rspData false s ∧ t.delivered = s.delivered) ∧
    (e.rspReady = true → t.pending = none ∧
      ∃ p, s.pending = some p ∧ t.delivered = s.delivered ++ [p.rsp])

/-- R84, R86 (with the model's free response delay, log 4): while the host stays quiet, the outstanding response stays,
each edge is one cycle, it is valid exactly from its delay on, and that delay is a number of at least `LAT >= 1` cycles,
so that each response does come. That `VEL`, `LAST_VEL` and `OVF` stay as they are before the response is valid is log 5
(writes at acceptance, DESIGN CHOICE), not R84 or R86; the schedule and the counts are the model's (logs 7 and 9). -/
def Obligations.ResponseArrivesAfterItsDelay : Prop :=
  ∀ (edges rest : List PortIn) (s : State) (p : Pending), paramsLegal s.params = true → s.held = none →
    s.pending = some p → (∀ e ∈ edges, QuietEdge e) → s.inputs = edges ++ rest →
    1 ≤ Config.lat s.place ∧ Config.lat s.place ≤ responseDelay s.place s.accepted ∧
    ∃ t, Sys2Proof.core.run edges.length s = .next t ∧
      t = { s with inputs := rest, pending := some { p with age := p.age + edges.length } } ∧
      (rspValid false t = true ↔ responseDelay s.place s.accepted ≤ p.age + edges.length)

/-! The system, the host's duties and the assembler. -/

/-- R74: a command to one instance never changes another: a step of instance `k` leaves every other instance as it was,
and steps of two instances commute. -/
def Obligations.InstancesAreIndependent : Prop :=
  (∀ (k j : Nat) (sys sys' : System), System.stepAt k sys = .next sys' → j ≠ k →
    (sys'[j]? : Option State) = sys[j]?) ∧
  (∀ (k j : Nat) (sys a b a' b' : System), j ≠ k →
    System.stepAt k sys = .next a → System.stepAt j a = .next b →
    System.stepAt j sys = .next a' → System.stepAt k a' = .next b' → b = b')

/-- R81: the host reads 1 byte at offset 0x75; the wake write (0x00 to offset 0x6B) is issued exactly when that byte was
read and equals `IDENT`; the command sent and the outcome are as R81 lists them. -/
def Obligations.WakeWriteIffIdentityMatches : Prop :=
  ∀ (p : Params) (ovf : Bool) (idRead : Option Byte) (ack : Bool),
    (Driver.initSensor p ovf idRead ack).bus =
      { device := 0x68#7, offset := 0x75#8, access := .read 1 } ::
        (if idRead = some p.ident then [{ device := 0x68#7, offset := 0x6B#8, access := .write 0x00#8 }] else []) ∧
    (Driver.initSensor p ovf idRead ack).outcome =
      (match idRead with
        | none => .transportFailure
        | some b => if b = p.ident then (if ack then .deviceDetected else .transportFailure) else .notDetected) ∧
    (Driver.initSensor p ovf idRead ack).command = idRead.map (fun b => encode (.idchk b))

/-- R82: sampling issues exactly one transaction, the 6-byte block read at offset 0x3B, whatever the bus answers. When,
and only when, the read succeeds, it sends DECODE or DECRAW, as the host chooses, with the bytes in block order, and its
outcome is what the block answers to that word in every state; a failed read is surfaced as transport-failure with no
command sent and no retry (log 13). -/
def Obligations.ReadSampleSendsExactlyOnSuccess : Prop :=
  ∀ (f : Driver.SampleForm) (block : Option Driver.SampleBlock) (s : State),
    (Driver.readSample s.params s.ovf f block).bus = [{ device := 0x68#7, offset := 0x3B#8, access := .read 6 }] ∧
    (block = none →
      (Driver.readSample s.params s.ovf f block).outcome = .transportFailure ∧
      (Driver.readSample s.params s.ovf f block).command = none) ∧
    (∀ x0 x1 y0 y1 z0 z1 : Byte, block = some ⟨x0, x1, y0, y1, z0, z1⟩ →
      ∃ c t r,
        c = (match f with
          | .decode => encode (.decode x0 x1 y0 y1 z0 z1)
          | .decraw => encode (.decraw x0 x1 y0 y1 z0 z1)) ∧
        (Driver.readSample s.params s.ovf f block).command = some c ∧ runCommand c s = .next t ∧
        t.pending.map (·.rsp) = some r ∧ (Driver.readSample s.params s.ovf f block).outcome = .sample r)

/-- R62, R82: the host's cycle: a successful block read sent as a DECODE samples the block's response; the lane of the
selected axis, copied into `ACC` with no conversion, is the acceleration the UPDATE integrates. -/
def Obligations.DecodedLaneFeedsUpdate : Prop :=
  ∀ (b : Driver.SampleBlock) (dt : Word32) (s : State), paramsLegal s.params = true →
    ∃ t p, exec (Driver.sampleCommand .decode b) s = .next t ∧ t.pending = some p ∧
      (Driver.readSample s.params s.ovf .decode (some b)).outcome = .sample p.rsp ∧
      (∃ acc, Driver.integrateAxis .X p.rsp dt = .update acc dt ∧ acc.toInt = conv s.params (raw16 b.xHigh b.xLow)) ∧
      (∃ acc, Driver.integrateAxis .Y p.rsp dt = .update acc dt ∧ acc.toInt = conv s.params (raw16 b.yHigh b.yLow)) ∧
      (∃ acc, Driver.integrateAxis .Z p.rsp dt = .update acc dt ∧ acc.toInt = conv s.params (raw16 b.zHigh b.zLow))

/-- R45: a decimal UPDATE line is assembled exactly when both values fit their signed 32-bit fields, and then the fields
hold those values: an operand never wraps. -/
def Obligations.AssembledUpdateNeverWraps : Prop :=
  ∀ (na nt : Bool) (a t : Nat) (c : CmdWord),
    Asm.assemble (.update (.dec na a) (.dec nt t)) = some c ↔
      ∃ acc dt : Word32, c = encode (.update acc dt) ∧ acc.toInt = (if na then -(a : Int) else a) ∧
        dt.toInt = (if nt then -(t : Int) else t)

/-- R46: `DECODE.B` and `DECRAW.B` expand to the command of the six bytes, the first most significant, and to nothing
else. -/
def Obligations.ByteFormsPackInBlockOrder : Prop :=
  ∀ b0 b1 b2 b3 b4 b5 : Byte,
    Asm.assemble (.decodeB (.hex b0.toNat) (.hex b1.toNat) (.hex b2.toNat) (.hex b3.toNat) (.hex b4.toNat) (.hex b5.toNat)) =
      some (encode (.decode b0 b1 b2 b3 b4 b5)) ∧
    Asm.assemble (.decrawB (.hex b0.toNat) (.hex b1.toNat) (.hex b2.toNat) (.hex b3.toNat) (.hex b4.toNat) (.hex b5.toNat)) =
      some (encode (.decraw b0 b1 b2 b3 b4 b5))

/-- R46: `UPDATE.SI` is exact: each assembled field is the literal's value times 10^6 (a literal of `k <= 6` digits after
the point counts units of 10^-k), and a literal with more digits is an assembly error; the assembler never rounds. -/
def Obligations.UpdateSiNeverRounds : Prop :=
  ∀ (a t : Asm.SiLit) (c : CmdWord), Asm.assemble (.updateSi a t) = some c →
    ∃ acc dt : Word32, c = encode (.update acc dt) ∧ a.digits.length ≤ 6 ∧ t.digits.length ≤ 6 ∧
      acc.toInt * 10 ^ a.digits.length =
        (if a.neg then -1 else 1) * ((a.whole : Int) * 10 ^ a.digits.length + Asm.digitsValue a.digits) * 10 ^ 6 ∧
      dt.toInt * 10 ^ t.digits.length =
        (if t.neg then -1 else 1) * ((t.whole : Int) * 10 ^ t.digits.length + Asm.digitsValue t.digits) * 10 ^ 6
end

