-- ==== Sys2Proof/Laws/Bits.lean ====
section
/-! SUPPORT. What the fields of a RESULT, of a STATUS byte and of a response word read as. -/

namespace Sys2Proof.Machine

@[simp] theorem laneResult_pad (x y z : Word32) : (laneResult x y z).extractLsb' 96 32 = 0#32 := by
  apply BitVec.eq_of_getLsbD_eq
  intro i hi
  simp only [laneResult, BitVec.getLsbD_extractLsb', BitVec.getLsbD_append]
  interval_cases i <;> simp

@[simp] theorem laneResult_x (x y z : Word32) : (laneResult x y z).extractLsb' 64 32 = x := by
  apply BitVec.eq_of_getLsbD_eq
  intro i hi
  simp only [laneResult, BitVec.getLsbD_extractLsb', BitVec.getLsbD_append]
  interval_cases i <;> simp

@[simp] theorem laneResult_y (x y z : Word32) : (laneResult x y z).extractLsb' 32 32 = y := by
  apply BitVec.eq_of_getLsbD_eq
  intro i hi
  simp only [laneResult, BitVec.getLsbD_extractLsb', BitVec.getLsbD_append]
  interval_cases i <;> simp

@[simp] theorem laneResult_z (x y z : Word32) : (laneResult x y z).extractLsb' 0 32 = z :=
  BitVec.extractLsb'_append_eq_right

@[simp] theorem laneX_laneResult (x y z : Word32) : laneX (laneResult x y z) = x := laneResult_x x y z

@[simp] theorem laneY_laneResult (x y z : Word32) : laneY (laneResult x y z) = y := laneResult_y x y z

@[simp] theorem laneZ_laneResult (x y z : Word32) : laneZ (laneResult x y z) = z := laneResult_z x y z

@[simp] theorem velocityResult_high (l v : Word64) : (velocityResult l v).extractLsb' 64 64 = l :=
  BitVec.extractLsb'_append_eq_left

@[simp] theorem velocityResult_low (l v : Word64) : (velocityResult l v).extractLsb' 0 64 = v :=
  BitVec.extractLsb'_append_eq_right

@[simp] theorem velocityResult_zero : velocityResult 0#64 0#64 = 0#128 := by decide

@[simp] theorem toWord_status (r : Response) : r.toWord.extractLsb' 128 8 = r.status.toByte :=
  BitVec.extractLsb'_append_eq_left

@[simp] theorem toWord_result (r : Response) : r.toWord.extractLsb' 0 128 = r.result :=
  BitVec.extractLsb'_append_eq_right

theorem toByte_ovf (s : Status) : s.toByte.getLsbD 4 = s.ovf := by
  rcases s with ⟨dz, sat, det, ovf, code⟩
  cases dz <;> cases sat <;> cases det <;> cases ovf <;> cases code <;> rfl

theorem toByte_det (s : Status) : s.toByte.getLsbD 5 = s.det := by
  rcases s with ⟨dz, sat, det, ovf, code⟩
  cases dz <;> cases sat <;> cases det <;> cases ovf <;> cases code <;> rfl

theorem toByte_sat (s : Status) : s.toByte.getLsbD 6 = s.sat := by
  rcases s with ⟨dz, sat, det, ovf, code⟩
  cases dz <;> cases sat <;> cases det <;> cases ovf <;> cases code <;> rfl

theorem toByte_dz (s : Status) : s.toByte.getLsbD 7 = s.dz := by
  rcases s with ⟨dz, sat, det, ovf, code⟩
  cases dz <;> cases sat <;> cases det <;> cases ovf <;> cases code <;> rfl

theorem toByte_code (s : Status) : s.toByte.extractLsb' 0 4 = s.code.bits := by
  rcases s with ⟨dz, sat, det, ovf, code⟩
  cases dz <;> cases sat <;> cases det <;> cases ovf <;> cases code <;> rfl

/-- `bits_N` of a value in range reads back as that value (R10). -/
theorem toInt_bits {N : Nat} {n : Int} (hN : 0 < N) (hlo : -2 ^ (N - 1) ≤ n) (hhi : n < 2 ^ (N - 1)) :
    (bits N n).toInt = n := by
  have hp : (2 : Int) ^ N = 2 * 2 ^ (N - 1) := by
    rw [← pow_succ', Nat.sub_add_cancel hN]
  simp only [bits, BitVec.toInt_ofInt]
  apply Int.bmod_eq_of_le_mul_two <;> push_cast <;> omega

/-- The raw word of two bytes lies in the signed 16-bit range (R47). -/
theorem raw16_range (hi lo : Byte) : -32768 ≤ raw16 hi lo ∧ raw16 hi lo ≤ 32767 := by
  have h1 := BitVec.le_toInt (joinBytes hi lo)
  have h2 := BitVec.toInt_lt (x := joinBytes hi lo)
  simp only [raw16, sint]
  omega

/-- A DECRAW lane holds the sign-extended raw word (R51). -/
theorem rawLane_raw16 (hi lo : Byte) : rawLane (raw16 hi lo) = (joinBytes hi lo).signExtend 32 := by
  simp [rawLane, raw16, sint, bits, BitVec.ofInt_toInt]

theorem toInt_rawLane (hi lo : Byte) : (rawLane (raw16 hi lo)).toInt = raw16 hi lo := by
  rw [rawLane_raw16, BitVec.toInt_signExtend_of_le (by omega)]
  rfl

end Sys2Proof.Machine
end

