-- ==== Sys2Proof/Laws/Decode.lean ====
section
/-! SUPPORT. The fields of a command word, and what the opcode assignment and the reserved masks say (R34 to R37). -/

namespace Sys2Proof

@[simp] theorem opField_commandWord (o : Opcode) (p : Payload) : opField (commandWord o p) = o.toByte :=
  BitVec.extractLsb'_append_eq_left

@[simp] theorem payloadField_commandWord (o : Opcode) (p : Payload) : payloadField (commandWord o p) = p :=
  BitVec.extractLsb'_append_eq_right

@[simp] theorem Opcode.ofByte_toByte (o : Opcode) : Opcode.ofByte o.toByte = some o := by cases o <;> rfl

/-- The opcode assignment takes each byte to at most one opcode. -/
theorem Opcode.toByte_of_ofByte {b : Byte} {o : Opcode} (h : Opcode.ofByte b = some o) : b = o.toByte := by
  have hb : b = BitVec.ofNat 8 b.toNat := by simp
  unfold Opcode.ofByte at h
  split at h <;> first | (cases h; rw [hb, ‹b.toNat = _›]; rfl) | simp at h

theorem Opcode.ofByte_eq_none_iff (b : Byte) : Opcode.ofByte b = none ↔ 7 ≤ b.toNat := by
  unfold Opcode.ofByte
  split <;> simp_all
  omega

/-- A word is its opcode and its payload (R34). -/
theorem commandWord_fields {c : CmdWord} {o : Opcode} (h : opField c = o.toByte) : commandWord o (payloadField c) = c := by
  unfold commandWord
  rw [← h]
  apply BitVec.eq_of_getLsbD_eq
  intro i hi
  simp only [opField, payloadField, BitVec.getLsbD_append, BitVec.getLsbD_extractLsb']
  by_cases h64 : i < 64
  · simp [h64]
  · simp [h64, show i - 64 < 8 by omega, show 64 + (i - 64) = i by omega]

/-- The decoder by cases: the word of an instruction, or the first check of R66 that fails. -/
theorem decodeWord_cases (c : CmdWord) :
    (Opcode.ofByte (opField c) = none ∧ decodeWord c = .error .illegalOpcode) ∨
    (∃ o, Opcode.ofByte (opField c) = some o ∧ payloadField c &&& o.format.rmask ≠ 0#64 ∧
      decodeWord c = .error .reservedNonzero) ∨
    (∃ o, Opcode.ofByte (opField c) = some o ∧ payloadField c &&& o.format.rmask = 0#64 ∧
      decodeWord c = .ok (o.assemble (payloadField c))) := by
  unfold decodeWord
  cases h : Opcode.ofByte (opField c) with
  | none => exact .inl ⟨rfl, rfl⟩
  | some o =>
    by_cases hm : payloadField c &&& o.format.rmask = 0#64
    · exact .inr (.inr ⟨o, rfl, hm, by simp [hm]⟩)
    · exact .inr (.inl ⟨o, rfl, hm, by simp [hm]⟩)

/-- The decoder on a word built from its fields. -/
theorem decodeWord_commandWord (o : Opcode) (p : Payload) (h : p &&& o.format.rmask = 0#64) :
    decodeWord (commandWord o p) = .ok (o.assemble p) := by
  simp [decodeWord, h]

theorem samplePayload_reserved (b0 b1 b2 b3 b4 b5 : Byte) :
    samplePayload b0 b1 b2 b3 b4 b5 &&& Format.rmask .S = 0#64 := by
  apply BitVec.eq_of_getLsbD_eq
  intro i hi
  simp only [samplePayload, Format.rmask, BitVec.getLsbD_and, BitVec.getLsbD_append]
  interval_cases i <;> simp

theorem idPayload_reserved (b : Byte) : (0#56 ++ b : BitVec (56 + 8)) &&& Format.rmask .I = 0#64 := by
  apply BitVec.eq_of_getLsbD_eq
  intro i hi
  simp only [Format.rmask, BitVec.getLsbD_and, BitVec.getLsbD_append]
  interval_cases i <;> simp

/-- The six bytes of a format S payload, in block order (R27). -/
theorem payloadByte_samplePayload (b0 b1 b2 b3 b4 b5 : Byte) :
    payloadByte (samplePayload b0 b1 b2 b3 b4 b5) 5 = b0 ∧ payloadByte (samplePayload b0 b1 b2 b3 b4 b5) 4 = b1 ∧
    payloadByte (samplePayload b0 b1 b2 b3 b4 b5) 3 = b2 ∧ payloadByte (samplePayload b0 b1 b2 b3 b4 b5) 2 = b3 ∧
    payloadByte (samplePayload b0 b1 b2 b3 b4 b5) 1 = b4 ∧ payloadByte (samplePayload b0 b1 b2 b3 b4 b5) 0 = b5 := by
  refine ⟨?_, ?_, ?_, ?_, ?_, ?_⟩ <;>
  · apply BitVec.eq_of_getLsbD_eq
    intro i hi
    simp only [payloadByte, samplePayload, BitVec.getLsbD_extractLsb', BitVec.getLsbD_append]
    interval_cases i <;> simp

/-- A payload whose reserved bits are clear is the format S payload of its six bytes. -/
theorem samplePayload_bytes {p : Payload} (h : p &&& Format.rmask .S = 0#64) :
    samplePayload (payloadByte p 5) (payloadByte p 4) (payloadByte p 3) (payloadByte p 2) (payloadByte p 1)
      (payloadByte p 0) = p := by
  apply BitVec.eq_of_getLsbD_eq
  intro i hi
  have hb := congrArg (fun v => v.getLsbD i) h
  simp only [Format.rmask, BitVec.getLsbD_and] at hb
  simp only [samplePayload, payloadByte, BitVec.getLsbD_append, BitVec.getLsbD_extractLsb']
  interval_cases i <;> simp at hb ⊢ <;> exact hb

/-- A payload whose reserved bits are clear is the format I payload of its low byte. -/
theorem idPayload_byte {p : Payload} (h : p &&& Format.rmask .I = 0#64) :
    (0#56 ++ payloadByte p 0 : BitVec (56 + 8)) = p := by
  apply BitVec.eq_of_getLsbD_eq
  intro i hi
  have hb := congrArg (fun v => v.getLsbD i) h
  simp only [Format.rmask, BitVec.getLsbD_and] at hb
  simp only [payloadByte, BitVec.getLsbD_append, BitVec.getLsbD_extractLsb']
  interval_cases i <;> simp at hb ⊢ <;> exact hb

/-- A format U payload is its two fields. -/
theorem updatePayload_fields (p : Payload) : (p.extractLsb' 32 32 ++ p.extractLsb' 0 32 : BitVec (32 + 32)) = p := by
  apply BitVec.eq_of_getLsbD_eq
  intro i hi
  simp only [BitVec.getLsbD_append, BitVec.getLsbD_extractLsb']
  by_cases h : i < 32
  · simp [h]
  · simp [h, show i - 32 < 32 by omega, show 32 + (i - 32) = i by omega]

end Sys2Proof
end

