-- ==== Sys2Proof/Laws/State.lean ====
section
/-! SUPPORT. One lemma per field per state update, true by rfl, so that no later proof unfolds a record update. -/

namespace Sys2Proof.Machine

@[simp] theorem respond_params (r : Response) (s : State) : (respond r s).params = s.params := rfl
@[simp] theorem respond_place (r : Response) (s : State) : (respond r s).place = s.place := rfl
@[simp] theorem respond_vel (r : Response) (s : State) : (respond r s).vel = s.vel := rfl
@[simp] theorem respond_lastVel (r : Response) (s : State) : (respond r s).lastVel = s.lastVel := rfl
@[simp] theorem respond_ovf (r : Response) (s : State) : (respond r s).ovf = s.ovf := rfl
@[simp] theorem respond_pending (r : Response) (s : State) : (respond r s).pending = some { rsp := r, age := 1 } := rfl
@[simp] theorem respond_held (r : Response) (s : State) : (respond r s).held = s.held := rfl
@[simp] theorem respond_inputs (r : Response) (s : State) : (respond r s).inputs = s.inputs := rfl
@[simp] theorem respond_delivered (r : Response) (s : State) : (respond r s).delivered = s.delivered := rfl
@[simp] theorem respond_accepted (r : Response) (s : State) : (respond r s).accepted = s.accepted + 1 := rfl

@[simp] theorem respondError_params (e : DecodeError) (s : State) : (respondError e s).params = s.params := rfl
@[simp] theorem respondError_place (e : DecodeError) (s : State) : (respondError e s).place = s.place := rfl
@[simp] theorem respondError_vel (e : DecodeError) (s : State) : (respondError e s).vel = s.vel := rfl
@[simp] theorem respondError_lastVel (e : DecodeError) (s : State) : (respondError e s).lastVel = s.lastVel := rfl
@[simp] theorem respondError_ovf (e : DecodeError) (s : State) : (respondError e s).ovf = s.ovf := rfl
@[simp] theorem respondError_pending (e : DecodeError) (s : State) : (respondError e s).pending = some { rsp := errorResponse e s.ovf, age := 1 } := rfl
@[simp] theorem respondError_held (e : DecodeError) (s : State) : (respondError e s).held = s.held := rfl
@[simp] theorem respondError_inputs (e : DecodeError) (s : State) : (respondError e s).inputs = s.inputs := rfl
@[simp] theorem respondError_delivered (e : DecodeError) (s : State) : (respondError e s).delivered = s.delivered := rfl
@[simp] theorem respondError_accepted (e : DecodeError) (s : State) : (respondError e s).accepted = s.accepted + 1 := rfl

@[simp] theorem writeVelocity_params (v : Word64) (s : State) : (writeVelocity v s).params = s.params := rfl
@[simp] theorem writeVelocity_place (v : Word64) (s : State) : (writeVelocity v s).place = s.place := rfl
@[simp] theorem writeVelocity_vel (v : Word64) (s : State) : (writeVelocity v s).vel = v := rfl
@[simp] theorem writeVelocity_lastVel (v : Word64) (s : State) : (writeVelocity v s).lastVel = v := rfl
@[simp] theorem writeVelocity_ovf (v : Word64) (s : State) : (writeVelocity v s).ovf = s.ovf := rfl
@[simp] theorem writeVelocity_pending (v : Word64) (s : State) : (writeVelocity v s).pending = s.pending := rfl
@[simp] theorem writeVelocity_held (v : Word64) (s : State) : (writeVelocity v s).held = s.held := rfl
@[simp] theorem writeVelocity_inputs (v : Word64) (s : State) : (writeVelocity v s).inputs = s.inputs := rfl
@[simp] theorem writeVelocity_delivered (v : Word64) (s : State) : (writeVelocity v s).delivered = s.delivered := rfl
@[simp] theorem writeVelocity_accepted (v : Word64) (s : State) : (writeVelocity v s).accepted = s.accepted := rfl

@[simp] theorem writeOvf_params (o : Bool) (s : State) : (writeOvf o s).params = s.params := rfl
@[simp] theorem writeOvf_place (o : Bool) (s : State) : (writeOvf o s).place = s.place := rfl
@[simp] theorem writeOvf_vel (o : Bool) (s : State) : (writeOvf o s).vel = s.vel := rfl
@[simp] theorem writeOvf_lastVel (o : Bool) (s : State) : (writeOvf o s).lastVel = s.lastVel := rfl
@[simp] theorem writeOvf_ovf (o : Bool) (s : State) : (writeOvf o s).ovf = o := rfl
@[simp] theorem writeOvf_pending (o : Bool) (s : State) : (writeOvf o s).pending = s.pending := rfl
@[simp] theorem writeOvf_held (o : Bool) (s : State) : (writeOvf o s).held = s.held := rfl
@[simp] theorem writeOvf_inputs (o : Bool) (s : State) : (writeOvf o s).inputs = s.inputs := rfl
@[simp] theorem writeOvf_delivered (o : Bool) (s : State) : (writeOvf o s).delivered = s.delivered := rfl
@[simp] theorem writeOvf_accepted (o : Bool) (s : State) : (writeOvf o s).accepted = s.accepted := rfl

@[simp] theorem zeroIntegrator_params (s : State) : (zeroIntegrator s).params = s.params := rfl
@[simp] theorem zeroIntegrator_place (s : State) : (zeroIntegrator s).place = s.place := rfl
@[simp] theorem zeroIntegrator_vel (s : State) : (zeroIntegrator s).vel = 0#64 := rfl
@[simp] theorem zeroIntegrator_lastVel (s : State) : (zeroIntegrator s).lastVel = 0#64 := rfl
@[simp] theorem zeroIntegrator_ovf (s : State) : (zeroIntegrator s).ovf = false := rfl
@[simp] theorem zeroIntegrator_pending (s : State) : (zeroIntegrator s).pending = s.pending := rfl
@[simp] theorem zeroIntegrator_held (s : State) : (zeroIntegrator s).held = s.held := rfl
@[simp] theorem zeroIntegrator_inputs (s : State) : (zeroIntegrator s).inputs = s.inputs := rfl
@[simp] theorem zeroIntegrator_delivered (s : State) : (zeroIntegrator s).delivered = s.delivered := rfl
@[simp] theorem zeroIntegrator_accepted (s : State) : (zeroIntegrator s).accepted = s.accepted := rfl

@[simp] theorem hardwareReset_params (s : State) : (hardwareReset s).params = s.params := rfl
@[simp] theorem hardwareReset_place (s : State) : (hardwareReset s).place = s.place := rfl
@[simp] theorem hardwareReset_vel (s : State) : (hardwareReset s).vel = 0#64 := rfl
@[simp] theorem hardwareReset_lastVel (s : State) : (hardwareReset s).lastVel = 0#64 := rfl
@[simp] theorem hardwareReset_ovf (s : State) : (hardwareReset s).ovf = false := rfl
@[simp] theorem hardwareReset_pending (s : State) : (hardwareReset s).pending = none := rfl
@[simp] theorem hardwareReset_held (s : State) : (hardwareReset s).held = s.held := rfl
@[simp] theorem hardwareReset_inputs (s : State) : (hardwareReset s).inputs = s.inputs := rfl
@[simp] theorem hardwareReset_delivered (s : State) : (hardwareReset s).delivered = s.delivered := rfl
@[simp] theorem hardwareReset_accepted (s : State) : (hardwareReset s).accepted = s.accepted := rfl

@[simp] theorem recordStall_params (e : PortIn) (s : State) : (recordStall e s).params = s.params := rfl
@[simp] theorem recordStall_place (e : PortIn) (s : State) : (recordStall e s).place = s.place := rfl
@[simp] theorem recordStall_vel (e : PortIn) (s : State) : (recordStall e s).vel = s.vel := rfl
@[simp] theorem recordStall_lastVel (e : PortIn) (s : State) : (recordStall e s).lastVel = s.lastVel := rfl
@[simp] theorem recordStall_ovf (e : PortIn) (s : State) : (recordStall e s).ovf = s.ovf := rfl
@[simp] theorem recordStall_pending (e : PortIn) (s : State) : (recordStall e s).pending = s.pending := rfl
@[simp] theorem recordStall_held (e : PortIn) (s : State) : (recordStall e s).held = if e.cmdValid then some e.cmdData else none := rfl
@[simp] theorem recordStall_inputs (e : PortIn) (s : State) : (recordStall e s).inputs = s.inputs := rfl
@[simp] theorem recordStall_delivered (e : PortIn) (s : State) : (recordStall e s).delivered = s.delivered := rfl
@[simp] theorem recordStall_accepted (e : PortIn) (s : State) : (recordStall e s).accepted = s.accepted := rfl

@[simp] theorem clearStall_params (s : State) : (clearStall s).params = s.params := rfl
@[simp] theorem clearStall_place (s : State) : (clearStall s).place = s.place := rfl
@[simp] theorem clearStall_vel (s : State) : (clearStall s).vel = s.vel := rfl
@[simp] theorem clearStall_lastVel (s : State) : (clearStall s).lastVel = s.lastVel := rfl
@[simp] theorem clearStall_ovf (s : State) : (clearStall s).ovf = s.ovf := rfl
@[simp] theorem clearStall_pending (s : State) : (clearStall s).pending = s.pending := rfl
@[simp] theorem clearStall_held (s : State) : (clearStall s).held = none := rfl
@[simp] theorem clearStall_inputs (s : State) : (clearStall s).inputs = s.inputs := rfl
@[simp] theorem clearStall_delivered (s : State) : (clearStall s).delivered = s.delivered := rfl
@[simp] theorem clearStall_accepted (s : State) : (clearStall s).accepted = s.accepted := rfl

@[simp] theorem takeResponse_params (p : Pending) (s : State) : (takeResponse p s).params = s.params := rfl
@[simp] theorem takeResponse_place (p : Pending) (s : State) : (takeResponse p s).place = s.place := rfl
@[simp] theorem takeResponse_vel (p : Pending) (s : State) : (takeResponse p s).vel = s.vel := rfl
@[simp] theorem takeResponse_lastVel (p : Pending) (s : State) : (takeResponse p s).lastVel = s.lastVel := rfl
@[simp] theorem takeResponse_ovf (p : Pending) (s : State) : (takeResponse p s).ovf = s.ovf := rfl
@[simp] theorem takeResponse_pending (p : Pending) (s : State) : (takeResponse p s).pending = none := rfl
@[simp] theorem takeResponse_held (p : Pending) (s : State) : (takeResponse p s).held = s.held := rfl
@[simp] theorem takeResponse_inputs (p : Pending) (s : State) : (takeResponse p s).inputs = s.inputs := rfl
@[simp] theorem takeResponse_delivered (p : Pending) (s : State) : (takeResponse p s).delivered = s.delivered ++ [p.rsp] := rfl
@[simp] theorem takeResponse_accepted (p : Pending) (s : State) : (takeResponse p s).accepted = s.accepted := rfl

@[simp] theorem awaitResponse_params (p : Pending) (s : State) : (awaitResponse p s).params = s.params := rfl
@[simp] theorem awaitResponse_place (p : Pending) (s : State) : (awaitResponse p s).place = s.place := rfl
@[simp] theorem awaitResponse_vel (p : Pending) (s : State) : (awaitResponse p s).vel = s.vel := rfl
@[simp] theorem awaitResponse_lastVel (p : Pending) (s : State) : (awaitResponse p s).lastVel = s.lastVel := rfl
@[simp] theorem awaitResponse_ovf (p : Pending) (s : State) : (awaitResponse p s).ovf = s.ovf := rfl
@[simp] theorem awaitResponse_pending (p : Pending) (s : State) : (awaitResponse p s).pending = some { p with age := p.age + 1 } := rfl
@[simp] theorem awaitResponse_held (p : Pending) (s : State) : (awaitResponse p s).held = s.held := rfl
@[simp] theorem awaitResponse_inputs (p : Pending) (s : State) : (awaitResponse p s).inputs = s.inputs := rfl
@[simp] theorem awaitResponse_delivered (p : Pending) (s : State) : (awaitResponse p s).delivered = s.delivered := rfl
@[simp] theorem awaitResponse_accepted (p : Pending) (s : State) : (awaitResponse p s).accepted = s.accepted := rfl

@[simp] theorem pushInput_params (e : PortIn) (s : State) : (pushInput e s).params = s.params := rfl
@[simp] theorem pushInput_place (e : PortIn) (s : State) : (pushInput e s).place = s.place := rfl
@[simp] theorem pushInput_vel (e : PortIn) (s : State) : (pushInput e s).vel = s.vel := rfl
@[simp] theorem pushInput_lastVel (e : PortIn) (s : State) : (pushInput e s).lastVel = s.lastVel := rfl
@[simp] theorem pushInput_ovf (e : PortIn) (s : State) : (pushInput e s).ovf = s.ovf := rfl
@[simp] theorem pushInput_pending (e : PortIn) (s : State) : (pushInput e s).pending = s.pending := rfl
@[simp] theorem pushInput_held (e : PortIn) (s : State) : (pushInput e s).held = s.held := rfl
@[simp] theorem pushInput_inputs (e : PortIn) (s : State) : (pushInput e s).inputs = e :: s.inputs := rfl
@[simp] theorem pushInput_delivered (e : PortIn) (s : State) : (pushInput e s).delivered = s.delivered := rfl
@[simp] theorem pushInput_accepted (e : PortIn) (s : State) : (pushInput e s).accepted = s.accepted := rfl

end Sys2Proof.Machine
end

