-- ==== Sys2Proof/Laws/Ops.lean ====
section
/-! SUPPORT. The specification lemmas of the shared number functions (R10, R48, R53, R54). -/

namespace Sys2Proof.Machine

/-- `sat64` lands in the signed 64-bit range. -/
theorem sat64_range (n : Int) : -2 ^ 63 ≤ sat64 n ∧ sat64 n ≤ 2 ^ 63 - 1 := by
  simp only [sat64]; split <;> (try split) <;> omega

theorem sat64_eq_iff (n : Int) : sat64 n = n ↔ -2 ^ 63 ≤ n ∧ n ≤ 2 ^ 63 - 1 := by
  simp only [sat64]; split <;> (try split) <;> omega

theorem satFlag_eq_false_iff (v n : Int) : satFlag v n = false ↔ v = n := by simp [satFlag]

theorem satFlag_eq_true_iff (v n : Int) : satFlag v n = true ↔ v ≠ n := by simp [satFlag]

/-- The committed register reads back as the clamped sum. -/
theorem toInt_bits_sat64 (n : Int) : (bits 64 (sat64 n)).toInt = sat64 n := by
  have h := sat64_range n
  apply toInt_bits <;> omega

theorem dzFlag_eq_true_iff (p : Params) (a : Int) : dzFlag p a = true ↔ -(p.dzUm : Int) < a ∧ a < (p.dzUm : Int) := by
  simp [dzFlag]

theorem effAccel_of_dz {p : Params} {a : Int} (h : dzFlag p a = true) : effAccel p a = 0 := by simp [effAccel, h]

theorem effAccel_of_not_dz {p : Params} {a : Int} (h : dzFlag p a = false) : effAccel p a = a := by simp [effAccel, h]

/-- What rounding does to a magnitude: the nearest multiple, a tie going up. -/
theorem round_magnitude (m d : Nat) (hd : 1 ≤ d) :
    ∃ q : Nat, (if 2 * (m - m / d * d) ≥ d then m / d + 1 else m / d) = q ∧
      2 * (m : Int) - d < 2 * (q * d : Int) ∧ 2 * (q * d : Int) ≤ 2 * m + d := by
  refine ⟨_, rfl, ?_⟩
  have h1 : m / d * d + m % d = m := Nat.div_add_mod' m d
  have h2 : m % d < d := Nat.mod_lt _ hd
  generalize m / d = k at *
  generalize m % d = r at *
  subst h1
  split
  · push_cast; constructor <;> nlinarith [Nat.add_sub_cancel_left (n := k * d) (m := r)]
  · push_cast; constructor <;> nlinarith [Nat.add_sub_cancel_left (n := k * d) (m := r)]

/-- `round_half_away(n, d)` is odd in `n`. -/
theorem roundHalfAway_neg (n : Int) {d : Nat} (hd : 1 ≤ d) : roundHalfAway (-n) d = -roundHalfAway n d := by
  rcases lt_trichotomy n 0 with h | h | h
  · simp only [roundHalfAway, Int.natAbs_neg]
    rw [if_pos (show -n ≥ 0 by omega), if_neg (show ¬n ≥ 0 by omega), neg_neg]
  · subst h
    simp only [roundHalfAway]
    simp [show d ≠ 0 by omega]
  · simp only [roundHalfAway, Int.natAbs_neg]
    rw [if_neg (show ¬-n ≥ 0 by omega), if_pos (show n ≥ 0 by omega)]

/-- `round_half_away(n, d)` for `n >= 0`: within half of `d` of `n`, an exact half rounding up. -/
theorem roundHalfAway_nonneg {n : Int} {d : Nat} (hn : 0 ≤ n) (hd : 1 ≤ d) :
    0 ≤ roundHalfAway n d ∧ 2 * n - d < 2 * (roundHalfAway n d * d) ∧ 2 * (roundHalfAway n d * d) ≤ 2 * n + d := by
  obtain ⟨q, hq, h1, h2⟩ := round_magnitude n.natAbs d hd
  have hr : roundHalfAway n d = (q : Int) := by
    simp only [roundHalfAway, ge_iff_le, hn, if_true]
    rw [← hq]
  have hm : (n.natAbs : Int) = n := Int.natAbs_of_nonneg hn
  rw [hr]
  refine ⟨by omega, by rw [← hm]; exact h1, by rw [← hm]; exact h2⟩

/-- `round_half_away(n, d)` for `n >= 0` in closed form. -/
theorem roundHalfAway_eq_div {n : Int} {d : Nat} (hn : 0 ≤ n) (hd : 1 ≤ d) :
    roundHalfAway n d = (2 * n + d) / (2 * d) := by
  obtain ⟨-, h1, h2⟩ := roundHalfAway_nonneg hn hd
  symm
  rw [Int.ediv_eq_iff_of_pos (by omega)]
  constructor <;> nlinarith

/-- With the default parameters (R48): `r * 613125 / 1024`, rounded, for a raw word that is not negative. -/
theorem conv_default {r : Int} (hr : 0 ≤ r) : conv Params.default r = (r * 1226250 + 1024) / 2048 := by
  have h := roundHalfAway_eq_div (n := r * 9810000) (d := 16384) (by omega) (by decide)
  have e : conv Params.default r = roundHalfAway (r * 9810000) 16384 := rfl
  rw [e, h]
  push_cast
  omega

/-- `conv` is odd (R52). -/
theorem conv_neg {p : Params} (hp : 1 ≤ p.sens) (r : Int) : conv p (-r) = -conv p r := by
  unfold conv
  rw [neg_mul]
  exact roundHalfAway_neg _ hp

/-- The effective acceleration is 0 or the acceleration itself (R53). -/
theorem effAccel_cases (p : Params) (a : Int) : effAccel p a = 0 ∨ effAccel p a = a := by
  unfold effAccel
  split
  · exact .inl rfl
  · exact .inr rfl

end Sys2Proof.Machine
end

