-- ==== Sys2Proof/Laws/Exec.lean ====
section
/-! SUPPORT. What a command can do, said once: every command answers a next state, and its state is one of three
shapes. -/

namespace Sys2Proof.Machine

/-- The exact sum of an UPDATE of `s` (R54). -/
theorem exactSum_def (aEff dt : Int) (l : Word64) : exactSum aEff dt l = l.toInt + aEff * dt := rfl

/-- The commands that write no register (R49 to R51, R57, R61). -/
theorem exec_readOnly {i : Instr} (h1 : i ≠ .reset) (h2 : ∀ acc dt, i ≠ .update acc dt) (s : State) :
    ∃ r, exec i s = .next (respond r s) ∧ r.status.ovf = s.ovf ∧ r.status.code = .ok ∧ r.status.sat = false ∧
      r.status.dz = false ∧ (r.status.det = true ↔ ∃ idb, i = .idchk idb ∧ idb = s.params.ident) ∧
      (r.status.det = true → r.result = 0#128) := by
  cases i with
  | nop => exact ⟨_, rfl, rfl, rfl, rfl, rfl, by simp [plainResponse, plainStatus], fun _ => rfl⟩
  | idchk idb =>
    refine ⟨_, rfl, rfl, rfl, rfl, rfl, ?_, fun _ => rfl⟩
    simp [idchkResponse, detFlag]
  | decode b0 b1 b2 b3 b4 b5 =>
    exact ⟨_, rfl, rfl, rfl, rfl, rfl, by simp [decodeResponse, plainStatus], by simp [decodeResponse, plainStatus]⟩
  | decraw b0 b1 b2 b3 b4 b5 =>
    exact ⟨_, rfl, rfl, rfl, rfl, rfl, by simp [decrawResponse, plainStatus], by simp [decrawResponse, plainStatus]⟩
  | update acc dt => exact absurd rfl (h2 acc dt)
  | reset => exact absurd rfl h1
  | query => exact ⟨_, rfl, rfl, rfl, rfl, rfl, by simp [queryResponse, plainStatus], by simp [queryResponse, plainStatus]⟩

/-- RESET (R56). -/
theorem exec_reset (s : State) : exec .reset s = .next (respond resetResponse (zeroIntegrator s)) := rfl

/-- UPDATE (R55): its next state over the clamped sum. -/
theorem exec_update (acc dt : Word32) (s : State) :
    exec (.update acc dt) s =
      .next (respond
        (updateResponse (dzFlag s.params acc.toInt)
          (satFlag (sat64 (exactSum (effAccel s.params acc.toInt) dt.toInt s.lastVel))
            (exactSum (effAccel s.params acc.toInt) dt.toInt s.lastVel))
          (stickyOvf s.ovf (satFlag (sat64 (exactSum (effAccel s.params acc.toInt) dt.toInt s.lastVel))
            (exactSum (effAccel s.params acc.toInt) dt.toInt s.lastVel)))
          (bits 64 (sat64 (exactSum (effAccel s.params acc.toInt) dt.toInt s.lastVel))))
        (writeOvf (stickyOvf s.ovf (satFlag (sat64 (exactSum (effAccel s.params acc.toInt) dt.toInt s.lastVel))
            (exactSum (effAccel s.params acc.toInt) dt.toInt s.lastVel)))
          (writeVelocity (bits 64 (sat64 (exactSum (effAccel s.params acc.toInt) dt.toInt s.lastVel))) s))) := rfl

/-- A suppressed acceleration adds nothing, so the sum is the old velocity and cannot saturate (R66). -/
theorem not_sat_of_dz {p : Params} {a dt : Int} {l : Word64} (h : dzFlag p a = true) :
    satFlag (sat64 (exactSum (effAccel p a) dt l)) (exactSum (effAccel p a) dt l) = false := by
  rw [satFlag_eq_false_iff, effAccel_of_dz h, exactSum_def, zero_mul, add_zero, sat64_eq_iff]
  have h1 := BitVec.le_toInt l
  have h2 := BitVec.toInt_lt (x := l)
  omega

/-- Every command answers a next state that owes exactly one response, one cycle old, and leaves the rest of the port
alone; only the three registers may have changed besides. -/
theorem exec_shape (i : Instr) (s : State) :
    ∃ r v l o, exec i s = .next (respond r { s with vel := v, lastVel := l, ovf := o }) ∧ r.status.ovf = o ∧
      r.status.code = .ok ∧ r.Consistent ∧ (s.vel = s.lastVel → v = l) := by
  by_cases h1 : i = .reset
  · subst h1
    exact ⟨_, _, _, _, rfl, rfl, rfl, by simp [Response.Consistent, resetResponse, plainStatus], fun _ => rfl⟩
  by_cases h2 : ∃ acc dt, i = .update acc dt
  · obtain ⟨acc, dt, rfl⟩ := h2
    refine ⟨_, _, _, _, exec_update acc dt s, rfl, rfl, ⟨?_, ?_, ?_, ?_⟩, fun _ => rfl⟩
    · intro h; exact absurd rfl h
    · intro h; exact ⟨not_sat_of_dz h, rfl⟩
    · intro h; exact ⟨by simp only [updateResponse, plainStatus] at h ⊢; rw [h]; simp [stickyOvf], rfl⟩
    · intro h; simp [updateResponse, plainStatus] at h
  · push Not at h2
    obtain ⟨r, hr, ho, hc, hs, hd, -, hz⟩ := exec_readOnly h1 h2 s
    refine ⟨r, s.vel, s.lastVel, s.ovf, hr, ho, hc, ⟨?_, ?_, ?_, hz⟩, id⟩
    · intro h; exact absurd hc h
    · intro h; simp [hd] at h
    · intro h; simp [hs] at h

/-- Every command completes. -/
theorem exec_answers (i : Instr) (s : State) : ∃ t, exec i s = .next t := by
  obtain ⟨r, v, l, o, h, -⟩ := exec_shape i s
  exact ⟨_, h⟩

/-- An accepted word, executed or rejected, has the same shape (R39, R63, R67). -/
theorem runCommand_shape (c : CmdWord) (s : State) :
    ∃ r v l o, runCommand c s = .next (respond r { s with vel := v, lastVel := l, ovf := o }) ∧ r.status.ovf = o ∧
      r.Consistent ∧ (s.vel = s.lastVel → v = l) := by
  unfold runCommand
  cases h : decodeWord c with
  | ok i =>
    obtain ⟨r, v, l, o, h, ho, -, hc, hv⟩ := exec_shape i s
    exact ⟨r, v, l, o, h, ho, hc, hv⟩
  | error e =>
    refine ⟨errorResponse e s.ovf, s.vel, s.lastVel, s.ovf, rfl, rfl, ?_, id⟩
    cases e <;> simp [Response.Consistent, errorResponse, plainStatus]

end Sys2Proof.Machine
end

