-- ==== Sys2Proof/Laws/PerInstr.lean ====
section
/-! SUPPORT. Per instruction, as syntax: the encoded word is well formed, that is, it belongs to a row of
spec/opcode_table.json (R35, R37). -/

namespace Sys2Proof.Laws.EncodeWellFormed

/-- The instruction's word is taken by the opcode table. -/
def Statement (i : Instr) : Prop := wellFormedWord (encode i) = true

/-- A word taken by a row is well formed. -/
theorem of_row (r : OpRow) (hr : r ∈ opcodeTable) (c : CmdWord) (h : c &&& r.mask = r.pattern) :
    wellFormedWord c = true := by
  unfold wellFormedWord
  rw [List.any_eq_true]
  exact ⟨r, hr, by simp [OpRow.hits, h]⟩

/-- The word of a format S command, under its row's mask. -/
theorem sample_hits (o : Opcode) (b0 b1 b2 b3 b4 b5 : Byte) :
    commandWord o (samplePayload b0 b1 b2 b3 b4 b5) &&& 0xFFFFFF000000000000#72 =
      (o.toByte ++ 0#64 : BitVec (8 + 64)) := by
  apply BitVec.eq_of_getLsbD_eq
  intro i hi
  simp only [commandWord, samplePayload, BitVec.getLsbD_and, BitVec.getLsbD_append]
  interval_cases i <;> simp

theorem nop : Statement .nop := by unfold Statement; decide

theorem idchk (idb : Byte) : Statement (.idchk idb) := by
  refine of_row ⟨"IDCHK", 0x010000000000000000#72, 0xFFFFFFFFFFFFFFFF00#72⟩ (by decide) _ ?_
  apply BitVec.eq_of_getLsbD_eq
  intro i hi
  simp only [encode, commandWord, Opcode.toByte, BitVec.getLsbD_and, BitVec.getLsbD_append]
  interval_cases i <;> simp

theorem decode (b0 b1 b2 b3 b4 b5 : Byte) : Statement (.decode b0 b1 b2 b3 b4 b5) := by
  refine of_row ⟨"DECODE", 0x020000000000000000#72, 0xFFFFFF000000000000#72⟩ (by decide) _ ?_
  exact (sample_hits .decode b0 b1 b2 b3 b4 b5).trans (by decide)

theorem decraw (b0 b1 b2 b3 b4 b5 : Byte) : Statement (.decraw b0 b1 b2 b3 b4 b5) := by
  refine of_row ⟨"DECRAW", 0x030000000000000000#72, 0xFFFFFF000000000000#72⟩ (by decide) _ ?_
  exact (sample_hits .decraw b0 b1 b2 b3 b4 b5).trans (by decide)

theorem update (acc dt : Word32) : Statement (.update acc dt) := by
  refine of_row ⟨"UPDATE", 0x040000000000000000#72, 0xFF0000000000000000#72⟩ (by decide) _ ?_
  apply BitVec.eq_of_getLsbD_eq
  intro i hi
  simp only [encode, commandWord, Opcode.toByte, BitVec.getLsbD_and, BitVec.getLsbD_append]
  interval_cases i <;> simp

theorem reset : Statement .reset := by unfold Statement; decide

theorem query : Statement .query := by unfold Statement; decide

end Sys2Proof.Laws.EncodeWellFormed
end

