-- ==== Sys2Proof/Laws/Step.lean ====
section
/-! SUPPORT. What one step can do, said once: every claim about steps starts from step_cases. -/

namespace Sys2Proof.Machine

/-- The hold rule looks at `held` alone. -/
@[simp] theorem holdBroken_inputs (e : PortIn) (s : State) (l : List PortIn) :
    holdBroken e { s with inputs := l } = holdBroken e s := rfl

/-- A step of a legal instance with an edge scheduled is that edge. -/
theorem step_edge {s : State} {e : PortIn} {rest : List PortIn} (hp : paramsLegal s.params = true)
    (hin : s.inputs = e :: rest) : step s = clockEdge e { s with inputs := rest } := by
  simp only [step, nextEdge, hp, hin, if_true]

/-- A reset edge (R78, R79). -/
theorem clockEdge_reset {e : PortIn} (hr : e.rst = true) (s : State) :
    clockEdge e s = .next (recordStall e (hardwareReset s)) := by
  simp only [clockEdge, hr, if_true]

/-- An edge of an outstanding command (R84). -/
theorem clockEdge_pending {e : PortIn} {s : State} {p : Pending} (hr : e.rst = false) (hh : holdBroken e s = false)
    (hp : s.pending = some p) : clockEdge e s = .next (recordStall e (responseEdge e p s)) := by
  simp [clockEdge, hr, hh, hp]

/-- The edge at which a command word is accepted (R84). -/
theorem clockEdge_accept {e : PortIn} {s : State} (hr : e.rst = false) (hh : holdBroken e s = false)
    (hp : s.pending = none) (hv : e.cmdValid = true) : clockEdge e s = runCommand e.cmdData (clearStall s) := by
  simp [clockEdge, hr, hh, hp, hv]

/-- An edge with nothing outstanding and nothing presented. -/
theorem clockEdge_idle {e : PortIn} {s : State} (hr : e.rst = false) (hh : holdBroken e s = false)
    (hp : s.pending = none) (hv : e.cmdValid = false) : clockEdge e s = .next (clearStall s) := by
  simp [clockEdge, hr, hh, hp, hv]

/-- The five ways a step answers a next state: no edge, hardware reset, an edge of an outstanding command, an accepted
command, an idle edge. -/
theorem step_cases {s t : State} (h : step s = .next t) :
    paramsLegal s.params = true ∧
    ((s.inputs = [] ∧ t = s) ∨
     ∃ e rest, s.inputs = e :: rest ∧
      ((e.rst = true ∧ t = recordStall e (hardwareReset { s with inputs := rest })) ∨
       (e.rst = false ∧ holdBroken e s = false ∧
        ((∃ p, s.pending = some p ∧ t = recordStall e (responseEdge e p { s with inputs := rest })) ∨
         (s.pending = none ∧ e.cmdValid = true ∧
            runCommand e.cmdData (clearStall { s with inputs := rest }) = .next t) ∨
         (s.pending = none ∧ e.cmdValid = false ∧ t = clearStall { s with inputs := rest }))))) := by
  unfold step at h
  split at h
  case isFalse => cases h
  case isTrue hp =>
    refine ⟨hp, ?_⟩
    unfold nextEdge at h
    split at h
    case h_1 hin => cases h; exact .inl ⟨hin, rfl⟩
    case h_2 e rest hin =>
      refine .inr ⟨e, rest, hin, ?_⟩
      unfold clockEdge at h
      split at h
      case isTrue hr => cases h; exact .inl ⟨hr, rfl⟩
      case isFalse hr =>
        refine .inr ⟨by simpa using hr, ?_⟩
        split at h
        case isTrue => cases h
        case isFalse hh =>
          refine ⟨by simpa [holdBroken] using hh, ?_⟩
          split at h
          case h_1 p hpend => cases h; exact .inl ⟨p, hpend, rfl⟩
          case h_2 hpend =>
            split at h
            case isTrue hv => exact .inr (.inl ⟨hpend, hv, h⟩)
            case isFalse hv => cases h; exact .inr (.inr ⟨hpend, by simpa using hv, rfl⟩)

/-- An edge of an outstanding command either takes its response or ages it. -/
theorem responseEdge_cases (e : PortIn) (p : Pending) (s : State) :
    (responseReady s.place s.accepted p = true ∧ e.rspReady = true ∧ responseEdge e p s = takeResponse p s) ∨
    (¬(responseReady s.place s.accepted p = true ∧ e.rspReady = true) ∧ responseEdge e p s = awaitResponse p s) := by
  unfold responseEdge
  by_cases h : responseReady s.place s.accepted p = true ∧ e.rspReady = true
  · exact .inl ⟨h.1, h.2, by simp [h.1, h.2]⟩
  · exact .inr ⟨h, if_neg (by simpa using h)⟩

/-- Neither way writes a register. -/
theorem responseEdge_registers (e : PortIn) (p : Pending) (s : State) :
    (responseEdge e p s).vel = s.vel ∧ (responseEdge e p s).lastVel = s.lastVel ∧ (responseEdge e p s).ovf = s.ovf ∧
    (responseEdge e p s).params = s.params ∧ (responseEdge e p s).place = s.place ∧ (responseEdge e p s).accepted = s.accepted ∧
    (responseEdge e p s).inputs = s.inputs := by
  rcases responseEdge_cases e p s with ⟨-, -, h⟩ | ⟨-, h⟩ <;> rw [h] <;> simp

end Sys2Proof.Machine
end

