-- ==== Sys2Proof/Tests/Slice0.lean ====
section
/-! SUPPORT. The model's own tests. Expected values come from spec/95_test_vectors.md or the rule named; the witness
theorems show inputs that meet the hypotheses of the statements in Certificates/Slice0/Obligations.lean. -/

namespace Sys2Proof.Tests

open Sys2Proof Sys2Proof.Machine

/-! Well-formed words: one ill-formed word for each check. -/

theorem test_ill_formed_unassigned : wellFormedWord 0x070000000000000000#72 = false := by decide
theorem test_ill_formed_unassigned_high : wellFormedWord 0xFFFFFFFFFFFFFFFFFF#72 = false := by decide
theorem test_ill_formed_nop : wellFormedWord 0x000000000000000001#72 = false := by decide
theorem test_ill_formed_idchk : wellFormedWord 0x010000000000000168#72 = false := by decide
theorem test_ill_formed_decode : wellFormedWord 0x020001000000000000#72 = false := by decide
theorem test_ill_formed_decraw : wellFormedWord 0x038000000000000000#72 = false := by decide
theorem test_ill_formed_reset : wellFormedWord 0x050000000000000001#72 = false := by decide
theorem test_ill_formed_query : wellFormedWord 0x060000000000000002#72 = false := by decide
theorem test_well_formed_update : wellFormedWord 0x04FFFFFFFFFFFFFFFF#72 = true := by decide

/-- The rows of the opcode table do not overlap: two rows differ on a bit both fix. -/
theorem test_rows_do_not_overlap :
    opcodeTable.Pairwise (fun r q => r.pattern &&& (r.mask &&& q.mask) ≠ q.pattern &&& (r.mask &&& q.mask)) := by
  decide

/-! Decoding, from words written out from R35 and R36 (95_test_vectors.md sections 1 and 2). -/

theorem test_decode_nop : decodeWord 0x000000000000000000#72 = .ok .nop := by decide
theorem test_decode_idchk : decodeWord 0x0100000000000000E8#72 = .ok (.idchk 0xE8#8) := by decide
theorem test_decode_decode :
    decodeWord 0x02000010000020C000#72 = .ok (.decode 0x10#8 0x00#8 0x00#8 0x20#8 0xC0#8 0x00#8) := by decide
theorem test_decode_decraw :
    decodeWord 0x0300000600FA000007#72 = .ok (.decraw 0x06#8 0x00#8 0xFA#8 0x00#8 0x00#8 0x07#8) := by decide
theorem test_decode_update : decodeWord 0x04FFFF3CB0000186A0#72 = .ok (.update 0xFFFF3CB0#32 0x000186A0#32) := by decide
theorem test_decode_reset : decodeWord 0x050000000000000000#72 = .ok .reset := by decide
theorem test_decode_query : decodeWord 0x060000000000000000#72 = .ok .query := by decide

/-! Encoding, from the assembler column of R45 and the vectors of 95_test_vectors.md. -/

theorem test_encode_update : encode (.update 0x0007A120#32 0xFFFE7960#32) = 0x040007A120FFFE7960#72 := by decide
theorem test_encode_decode :
    encode (.decode 0x7F#8 0xFF#8 0x80#8 0x00#8 0xFF#8 0xFF#8) = 0x0200007FFF8000FFFF#72 := by decide

/-! The commands, by vectors of 95_test_vectors.md: the word is presented on a free port and one step is run. -/

/-- A state with both velocity registers at `v` and the flag `o`. -/
def start (v : Int) (o : Bool) : State :=
  { State.reset with vel := BitVec.ofInt 64 v, lastVel := BitVec.ofInt 64 v, ovf := o }

/-- STATUS, RESULT, `VEL` and `OVF` after one step that presents the word. -/
def answer (w : Nat) (s : State) : Option (Byte × ResultWord × Int × Bool) :=
  match step (s.withFetchWord 72 w) with
  | .next t => t.pending.map fun p => (p.rsp.status.toByte, p.rsp.result, t.vel.toInt, t.ovf)
  | .fault _ => none
  | .refused _ => none

-- section 2.5
theorem test_nop_reports_ovf :
    answer 0x000000000000000000 (start 9223371036854775807 true) = some (0x10#8, 0#128, 9223371036854775807, true) := by
  decide
theorem test_nop_reserved : answer 0x000000000000000001 (start 0 false) = some (0x02#8, 0#128, 0, false) := by decide
theorem test_unassigned_reports_ovf :
    answer 0x070000000000000000 (start 9223371036854775807 true) = some (0x11#8, 0#128, 9223371036854775807, true) := by
  decide
theorem test_unassigned_beats_reserved :
    answer 0xFFFFFFFFFFFFFFFFFF (start 0 false) = some (0x01#8, 0#128, 0, false) := by decide
-- section 2.2
theorem test_idchk_match : answer 0x010000000000000068 (start 0 false) = some (0x20#8, 0#128, 0, false) := by decide
theorem test_idchk_reserved : answer 0x010000000000000168 (start 0 false) = some (0x02#8, 0#128, 0, false) := by decide
-- section 2.1
theorem test_decode_extremes :
    answer 0x0200007FFF8000FFFF (start 0 false) =
      some (0x00#8, 0x00000000012B5E49FED49F60FFFFFDA9#128, 0, false) := by decide
theorem test_decode_ties :
    answer 0x02000000010200FE00 (start 0 false) =
      some (0x00#8, 0x00000000000002570004AD83FFFB527D#128, 0, false) := by decide
theorem test_decraw_extremes :
    answer 0x0300007FFF8000FFFF (start 0 false) =
      some (0x00#8, 0x0000000000007FFFFFFF8000FFFFFFFF#128, 0, false) := by decide
theorem test_decraw_small :
    answer 0x03000000530054FFAD (start 0 false) =
      some (0x00#8, 0x000000000000005300000054FFFFFFAD#128, 0, false) := by decide
-- section 2.3
theorem test_update_bound_not_suppressed :
    answer 0x04FFFF3CB0000186A0 (start 0 false) =
      some (0x00#8, 0xFFFFFFFED5FA0E00FFFFFFFED5FA0E00#128, -5000000000, false) := by decide
theorem test_update_saturates :
    answer 0x048000000080000000 (start 4611686018427387904 false) =
      some (0x50#8, 0x7FFFFFFFFFFFFFFF7FFFFFFFFFFFFFFF#128, 9223372036854775807, true) := by decide
-- section 2.4
theorem test_reset_clears :
    answer 0x050000000000000000 (start 9223371036854775807 true) = some (0x00#8, 0#128, 0, false) := by decide
theorem test_reset_reserved :
    answer 0x050000000000000001 (start 9223371036854775807 true) =
      some (0x12#8, 0#128, 9223371036854775807, true) := by decide
theorem test_query_reads :
    answer 0x060000000000000000 (start 9223371036854775807 true) =
      some (0x10#8, 0x7FFFFF172B5AEFFF7FFFFF172B5AEFFF#128, 9223371036854775807, true) := by decide

/-! The port, the system, the host's duties and the assembler. -/

def idleEdge : PortIn := { rst := false, cmdValid := false, cmdData := 0#72, rspReady := false }

def nopEdge : PortIn := presentWord 0#72

def sampleResponse : Response := { status := plainStatus false .ok, result := 0#128 }

/-- R84 with spec/93 I9: a stalled command withdrawn before it is accepted. -/
theorem test_withdrawn_command_refused :
    step { State.reset with held := some 0#72, inputs := [idleEdge] } = .refused .commandNotHeld := rfl

/-- R6, R7 with spec/93 I10: `SENS = 0` is no legal instance. -/
theorem test_illegal_instance_refused :
    step { State.reset with params := { Params.default with sens := 0 } } = .refused .illegalParameters := rfl

/-- R78: reset discards the outstanding command. -/
theorem test_hardware_reset_discards :
    (match step { start 5 true with
        pending := some { rsp := sampleResponse, age := 3 }, inputs := [{ idleEdge with rst := true, rspReady := true }] } with
      | .next t => some (t.vel, t.lastVel, t.ovf, t.pending, t.delivered)
      | .fault _ => none
      | .refused _ => none) = some (0#64, 0#64, false, none, []) := by decide

/-- R81 (property 7): the wake write. -/
theorem test_wake_write :
    (Driver.initSensor Params.default false (some 0x68#8) true).bus.map (·.offset) = [0x75#8, 0x6B#8] ∧
    (Driver.initSensor Params.default false (some 0x00#8) true).bus.map (·.offset) = [0x75#8] := by decide

/-- R82: one block read, and a command exactly when it succeeds (the words of 95_test_vectors.md section 2.1). -/
theorem test_read_sample :
    (Driver.readSample Params.default false .decode (some ⟨0x7F#8, 0xFF#8, 0x80#8, 0x00#8, 0xFF#8, 0xFF#8⟩)).command =
      some 0x0200007FFF8000FFFF#72 ∧
    (Driver.readSample Params.default false .decraw (some ⟨0x7F#8, 0xFF#8, 0x80#8, 0x00#8, 0xFF#8, 0xFF#8⟩)).command =
      some 0x0300007FFF8000FFFF#72 ∧
    Driver.readSample Params.default false .decraw none =
      { outcome := .transportFailure, command := none, bus := [{ device := 0x68#7, offset := 0x3B#8, access := .read 6 }] } := by
  decide

/-- R26: offsets 0x3B to 0x40. -/
theorem test_accel_offsets : (List.finRange 6).map Driver.accelOffset = [0x3B#8, 0x3C#8, 0x3D#8, 0x3E#8, 0x3F#8, 0x40#8] := by
  decide

-- 95_test_vectors.md, P1 and section 2.1
theorem test_assemble_si :
    Asm.assembleLine "UPDATE.SI 0.5, 0.1      ; = UPDATE 500000, 100000".toList = .word 0x040007A120000186A0#72 := by decide
theorem test_assemble_bytes :
    Asm.assembleLine "DECODE.B 0x10,0x00,0x00,0x20,0xC0,0x00".toList = .word 0x02000010000020C000#72 := by decide
theorem test_assemble_negative :
    Asm.assembleLine "UPDATE -50000, 100000".toList = .word 0x04FFFF3CB0000186A0#72 := by decide
theorem test_assemble_word72 :
    Asm.assembleLine ".word72 0x2A_0000C350000186A0".toList = .word 0x2A0000C350000186A0#72 := by decide
/-- R45: out of range never wraps; R46: a seventh digit is an error. -/
theorem test_assembly_errors :
    Asm.assembleLine "IDCHK 256".toList = .error ∧ Asm.assembleLine "UPDATE 2147483648, 0".toList = .error ∧
    Asm.assembleLine "UPDATE.SI 0.0000001, 0".toList = .error ∧ Asm.assembleLine "; only".toList = .empty := by decide

/-! Witnesses: concrete inputs that meet the hypotheses of the statements. -/

theorem witness_DecodedWordIsTheEncoding : decodeWord 0x0100000000000000FF#72 = .ok (.idchk 0xFF#8) := by decide

theorem witness_UnassignedOpcodeIsIllegal : 7 ≤ ((0x070000000000000000#72).extractLsb' 64 8).toNat := by decide

theorem witness_UnassignedOpcodeIsIllegal_last : 7 ≤ ((0xFF0000000000000000#72).extractLsb' 64 8).toNat := by decide

theorem witness_ReservedBitIsRejected_Z :
    (0x008000000000000000#72).extractLsb' 64 8 = 0#8 ∧
    (0x008000000000000000#72).extractLsb' 0 64 &&& 0xFFFFFFFFFFFFFFFF#64 ≠ 0#64 := by decide

theorem witness_ReservedBitIsRejected_I :
    (0x010000000000000100#72).extractLsb' 64 8 = 1#8 ∧
    (0x010000000000000100#72).extractLsb' 0 64 &&& 0xFFFFFFFFFFFFFF00#64 ≠ 0#64 ∧
    (0x0100000000000000FF#72).extractLsb' 0 64 &&& 0xFFFFFFFFFFFFFF00#64 = 0#64 := by decide

theorem witness_ReservedBitIsRejected_S :
    (0x020001000000000000#72).extractLsb' 64 8 = 2#8 ∧
    (0x020001000000000000#72).extractLsb' 0 64 &&& 0xFFFF000000000000#64 ≠ 0#64 ∧
    (0x0300FFFFFFFFFFFFFF#72).extractLsb' 0 64 &&& 0xFFFF000000000000#64 ≠ 0#64 ∧
    (0x020000FFFFFFFFFFFF#72).extractLsb' 0 64 &&& 0xFFFF000000000000#64 = 0#64 := by decide

theorem witness_ReservedBitIsRejected_U :
    (0x04FFFFFFFFFFFFFFFF#72).extractLsb' 64 8 = 4#8 ∧
    (0x04FFFFFFFFFFFFFFFF#72).extractLsb' 0 64 &&& 0x0000000000000000#64 = 0#64 := by decide

theorem witness_NopReportsOvfOnly :
    (0x000000000000000001#72).extractLsb' 64 8 = 0x00#8 ∧ (0x000000000000000001#72).extractLsb' 0 64 ≠ 0#64 := by decide

theorem witness_IdchkComparesIdentity :
    (0x010000000000000168#72).extractLsb' 64 8 = 0x01#8 ∧ (0x010000000000000168#72).extractLsb' 8 56 ≠ 0#56 ∧
    (0x0100000000000000FF#72).extractLsb' 64 8 = 0x01#8 ∧ (0x0100000000000000FF#72).extractLsb' 8 56 = 0#56 := by decide

theorem witness_DecodeGivesPhysicalUnits :
    paramsLegal State.reset.params = true ∧
    (0x020001000000000000#72).extractLsb' 64 8 = 0x02#8 ∧ (0x020001000000000000#72).extractLsb' 48 16 ≠ 0#16 ∧
    (0x020000FFFFFFFFFFFF#72).extractLsb' 64 8 = 0x02#8 ∧ (0x020000FFFFFFFFFFFF#72).extractLsb' 48 16 = 0#16 := by decide

theorem witness_DecrawGivesRawWords :
    (0x030001000000000000#72).extractLsb' 64 8 = 0x03#8 ∧ (0x030001000000000000#72).extractLsb' 48 16 ≠ 0#16 ∧
    (0x030000FFFFFFFFFFFF#72).extractLsb' 64 8 = 0x03#8 ∧ (0x030000FFFFFFFFFFFF#72).extractLsb' 48 16 = 0#16 := by decide

/-- The equations of R55 at both clamps, at the first sum inside each, and inside the deadzone. -/
theorem witness_UpdateIntegratesOneStep :
    sat64 (2 ^ 63) = 2 ^ 63 - 1 ∧ sat64 (2 ^ 63 - 1) = 2 ^ 63 - 1 ∧ sat64 (-2 ^ 63) = -2 ^ 63 ∧
    sat64 (-2 ^ 63 - 1) = -2 ^ 63 ∧ effAccel Params.default 49999 = 0 ∧ effAccel Params.default (-50000) = -50000 ∧
    (0x0400000000FFFFFFFF#72).extractLsb' 64 8 = 0x04#8 := by decide

theorem witness_ResetZeroesTheIntegrator :
    (0x050000000000000001#72).extractLsb' 64 8 = 0x05#8 ∧ (0x050000000000000001#72).extractLsb' 0 64 ≠ 0#64 := by decide

theorem witness_QueryReadsTheIntegrator :
    (0x060000000000000002#72).extractLsb' 64 8 = 0x06#8 ∧ (0x060000000000000002#72).extractLsb' 0 64 ≠ 0#64 := by decide

/-- A tie (R48): with `SENS = 16384` and `GRAV_UM = 9810000`, raw 512 lies half way. -/
theorem witness_ConvRoundsToNearestTiesAway :
    1 ≤ Params.default.sens ∧
    2 * |conv Params.default 512 * (Params.default.sens : Int) - 512 * (Params.default.gravUm : Int)| =
      (Params.default.sens : Int) := by decide

/-- The parameters at the edge of R7: one more unit of gravity breaks the constraint. -/
theorem witness_LegalParamsMakeDecodeFit :
    paramsLegal Params.default = true ∧ paramsLegal ⟨1, 65535, 0, 0#8⟩ = true ∧ paramsLegal ⟨1, 65536, 0, 0#8⟩ = false := by
  decide

theorem witness_DefaultDecodeProperties :
    conv Params.default 1024 * 16384 = 1024 * 9810000 ∧ (1024 : Int) % 1024 = 0 ∧ (-512 : Int) % 1024 = 512 ∧
    conv Params.default (-83) = -49697 ∧ conv Params.default (-32768) < conv Params.default (-32767) := by decide

theorem witness_DeadzoneIsOpenInterval :
    (-(Params.default.dzUm : Int) < 49999 ∧ (49999 : Int) < (Params.default.dzUm : Int)) ∧
    ¬(-(Params.default.dzUm : Int) < 50000 ∧ (50000 : Int) < (Params.default.dzUm : Int)) ∧
    1 ≤ Params.default.dzUm ∧ (Params.mk 16384 9810000 0 0x68#8).dzUm = 0 := by decide

/-- Both ends of R54: the largest product from the largest velocity leaves the range, and the most negative one. -/
theorem witness_RecurrenceIsExactOrClamped :
    exactSum (effAccel Params.default (0x80000000#32).toInt) (0x80000000#32).toInt 0x7FFFFFFFFFFFFFFF#64 = 2 ^ 63 - 1 + 2 ^ 62 ∧
    exactSum (effAccel Params.default (0x80000000#32).toInt) (0x7FFFFFFF#32).toInt 0x8000000000000000#64 < -2 ^ 63 ∧
    satFlag (sat64 0) 0 = false := by decide

theorem witness_SuppressedUpdateChangesNothing :
    VelocitiesAgree (start 7 true) ∧
    (-((start 7 true).params.dzUm : Int) < (0x0000C34F#32).toInt ∧ (0x0000C34F#32).toInt < ((start 7 true).params.dzUm : Int)) := by
  unfold VelocitiesAgree
  decide

/-- 95_test_vectors.md section 2.3: `UPDATE 500000, 100000` and `UPDATE 500000, -100000`, neither saturating. -/
theorem witness_NegativeTimeStepReversesSign :
    (0xFFFE7960#32).toInt = -(0x000186A0#32).toInt ∧
    (∃ t, exec (.update 0x0007A120#32 0x000186A0#32) State.reset = .next t ∧ t.ovf = false) ∧
    (∃ t, exec (.update 0x0007A120#32 0xFFFE7960#32) State.reset = .next t ∧ t.ovf = false) :=
  ⟨by decide, ⟨_, rfl, by decide⟩, ⟨_, rfl, by decide⟩⟩

theorem witness_UpdateAfterResetStaysZero :
    -((start 7 true).params.dzUm : Int) < (0xFFFF3CB1#32).toInt ∧
    (0xFFFF3CB1#32).toInt < ((start 7 true).params.dzUm : Int) := by decide

theorem witness_OvfIsSticky :
    (∃ t, exec .query (start 7 true) = .next t) ∧
    (∃ t, exec (.update 0x80000000#32 0x80000000#32) (start 4611686018427387904 false) = .next t ∧ t.ovf = true) ∧
    (∃ t, exec .reset (start 7 true) = .next t) ∧
    (resetEdge { start 7 true with inputs := [{ idleEdge with rst := true }] } = true ∧
      ∃ t, step { start 7 true with inputs := [{ idleEdge with rst := true }] } = .next t) ∧
    (∃ t p, runCommand 0x070000000000000000#72 (start 7 true) = .next t ∧ t.pending = some p) :=
  ⟨⟨_, rfl⟩, ⟨_, rfl, by decide⟩, ⟨_, rfl⟩, ⟨rfl, _, rfl⟩, ⟨_, _, rfl, rfl⟩⟩

theorem witness_StatusByteFields :
    ∃ t p, runCommand 0x010000000000000068#72 State.reset = .next t ∧ t.pending = some p ∧ p.rsp.status.det = true :=
  ⟨_, _, rfl, rfl, by decide⟩

theorem witness_ResultLayoutByCommand :
    ∃ t p, runCommand 0x060000000000000000#72 (start 7 true) = .next t ∧ t.pending = some p :=
  ⟨_, _, rfl, rfl⟩

theorem witness_ReadOnlyCommandsFrame :
    (∃ t, exec .nop (start 7 true) = .next t) ∧ (∃ t, exec (.idchk 0x68#8) (start 7 true) = .next t) ∧
    (∃ t, exec (.decode 0#8 1#8 2#8 3#8 4#8 5#8) (start 7 true) = .next t) ∧
    (∃ t, exec (.decraw 0#8 1#8 2#8 3#8 4#8 5#8) (start 7 true) = .next t) ∧
    ∃ t, exec .query (start 7 true) = .next t :=
  ⟨⟨_, rfl⟩, ⟨_, rfl⟩, ⟨_, rfl⟩, ⟨_, rfl⟩, _, rfl⟩

theorem witness_IntegratorCommandsFrame :
    (∃ t, exec (.update 1#32 2#32) (start 7 true) = .next t) ∧ ∃ t, exec .reset (start 7 true) = .next t :=
  ⟨⟨_, rfl⟩, _, rfl⟩

/-- An edge that presents the word, with that word stalled or nothing stalled before. -/
def presenting (w : CmdWord) (held : Option CmdWord) : State :=
  { start 7 true with inputs := [presentWord w], held := held }

theorem witness_StepRunsDecodedCommand :
    paramsLegal (presenting 0#72 none).params = true ∧ (presenting 0#72 none).inputs = presentWord 0#72 :: [] ∧
    (presentWord 0#72).rst = false ∧ (presentWord 0#72).cmdValid = true ∧ (presenting 0#72 none).pending = none ∧
    (presenting 0#72 none).held = none ∧ (presenting 0#72 (some 0#72)).held = some (presentWord 0#72).cmdData ∧
    decodeWord (presentWord 0#72).cmdData = .ok .nop := by decide

theorem witness_StepAnswersRejectedWord :
    paramsLegal (presenting 1#72 none).params = true ∧ (presenting 1#72 none).inputs = presentWord 1#72 :: [] ∧
    (presentWord 1#72).rst = false ∧ (presentWord 1#72).cmdValid = true ∧ (presenting 1#72 none).pending = none ∧
    (presenting 1#72 none).held = none ∧ (presenting 1#72 (some 1#72)).held = some (presentWord 1#72).cmdData ∧
    decodeWord (presentWord 1#72).cmdData = .error .reservedNonzero ∧
    decodeWord (presentWord 0x070000000000000001#72).cmdData = .error .illegalOpcode := by decide

theorem witness_FetchWordRunsNext :
    paramsLegal State.reset.params = true ∧ decodeTableWord 72 0x060000000000000000 = some .query := by decide

theorem witness_StepAnswersUnlessHostOrInstanceIllegal :
    stepAllowed { State.reset with inputs := [nopEdge] } ∧
    ¬stepAllowed { State.reset with held := some 0#72, inputs := [idleEdge] } := by
  constructor
  · exact ⟨by decide, fun e rest h => by cases h; exact .inr rfl⟩
  · rintro ⟨-, h⟩
    rcases h idleEdge [] rfl with h | h <;> simp [idleEdge, holdBroken] at h

/-- The second edge is stalled and its command is held over the edge at which the response is awaited. -/
theorem witness_HoldingHostIsNeverRefused :
    paramsLegal State.reset.params = true ∧ HostHolds State.reset.held [idleEdge, nopEdge, nopEdge, nopEdge] := by
  simp [HostHolds, State.reset, idleEdge, nopEdge, presentWord]
  decide

theorem witness_OnlyUpdateAndResetsWriteRegisters :
    ∃ t, step { start 7 true with inputs := [presentWord 0x050000000000000000#72] } = .next t ∧ t.vel ≠ (start 7 true).vel :=
  ⟨_, rfl, by decide⟩

theorem witness_StepNeverChangesParams : ∃ t, step { State.reset with inputs := [nopEdge] } = .next t := ⟨_, rfl⟩

/-- A reset edge that also presents a command and takes a response. -/
def busyResetEdge : PortIn := { rst := true, cmdValid := true, cmdData := 0#72, rspReady := true }

theorem witness_HardwareResetEdge :
    paramsLegal { start 7 true with inputs := [busyResetEdge] }.params = true ∧
    { start 7 true with inputs := [busyResetEdge] }.inputs = busyResetEdge :: [] ∧ busyResetEdge.rst = true := by decide

theorem witness_AbortedCommandUnobservable :
    resetEdge { start 7 true with inputs := [{ idleEdge with rst := true }] } = true ∧
    paramsLegal (start 7 true).params = true ∧
    ∃ t, exec .reset { start 7 true with inputs := [{ idleEdge with rst := true }] } = .next t :=
  ⟨rfl, by decide, _, rfl⟩

theorem witness_StepKeepsVelocitiesEqual :
    VelocitiesAgree (start 7 true) ∧ (∃ t, step (start 7 true) = .next t) ∧ ∃ t, exec .query (start 7 true) = .next t :=
  ⟨rfl, ⟨_, rfl⟩, _, rfl⟩

theorem witness_StepKeepsResponsesConsistent :
    ResponseInv { State.reset with pending := some { rsp := sampleResponse, age := 1 }, inputs := [idleEdge] } ∧
    ∃ t, step { State.reset with pending := some { rsp := sampleResponse, age := 1 }, inputs := [idleEdge] } = .next t := by
  refine ⟨⟨?_, ?_⟩, _, rfl⟩
  · intro p hp
    cases hp
    simp [Response.Consistent, sampleResponse, plainStatus, State.reset]
  · intro r hr
    cases hr

/-- Two edges of P1: the state tracks 50000000000 counts and an UPDATE is presented. -/
theorem witness_BlockRefinesSourceIntegrator :
    Tracks 50000000000 { start 50000000000 false with inputs := [presentWord 0x040007A120000186A0#72] } ∧
    (∃ t, step { start 50000000000 false with inputs := [presentWord 0x040007A120000186A0#72] } = .next t) ∧
    sourceNext { start 50000000000 false with inputs := [presentWord 0x040007A120000186A0#72] } 50000000000 = 100000000000 :=
  ⟨⟨rfl, fun _ => by decide⟩, ⟨_, rfl⟩, by decide⟩

theorem witness_EffectDependsOnWordAndRegisters :
    ∃ t t', runCommand 0x060000000000000000#72 (start 7 true) = .next t ∧
      runCommand 0x060000000000000000#72 { start 7 true with accepted := 3, inputs := [nopEdge] } = .next t' :=
  ⟨_, _, rfl, rfl⟩

theorem witness_DecoderIgnoresVelocity :
    (start 7 true).params = (start 8 true).params ∧ (start 7 true).ovf = (start 8 true).ovf ∧
    ∃ t t', exec (.idchk 0x68#8) (start 7 true) = .next t ∧ exec (.idchk 0x68#8) (start 8 true) = .next t' :=
  ⟨rfl, rfl, _, _, rfl, rfl⟩

theorem witness_AtMostOneCommandOutstanding :
    resetEdge { State.reset with pending := some { rsp := sampleResponse, age := 1 }, inputs := [nopEdge] } = false ∧
    ∃ t, step { State.reset with pending := some { rsp := sampleResponse, age := 1 }, inputs := [nopEdge] } = .next t :=
  ⟨rfl, _, rfl⟩

theorem witness_ResponsesComeBackInOrder :
    resetEdge { State.reset with inputs := [nopEdge] } = false ∧
    acceptedWord { State.reset with inputs := [nopEdge] } = some 0#72 ∧
    acceptedWord { State.reset with inputs := [idleEdge] } = none ∧
    ∃ t, step { State.reset with inputs := [nopEdge] } = .next t :=
  ⟨rfl, rfl, rfl, _, rfl⟩

/-- A response as old as its delay, with an edge that waits or one that takes it. -/
def validState (ready : Bool) : State :=
  { State.reset with
    pending := some { rsp := sampleResponse, age := responseDelay 0 0 }
    inputs := [{ idleEdge with rspReady := ready }] }

theorem validState_valid (ready : Bool) : rspValid false (validState ready) = true := by
  simp [rspValid, responseReady, validState, State.reset]

theorem validState_steps (ready : Bool) : ∃ t, step (validState ready) = .next t :=
  ⟨_, (step_edge (s := validState ready) (show paramsLegal Params.default = true by decide) rfl).trans (clockEdge_pending rfl rfl rfl)⟩

theorem witness_ValidResponseStableUntilTaken :
    (rspValid false (validState false) = true ∧ ∃ t, step (validState false) = .next t) ∧
    (rspValid false (validState true) = true ∧ ∃ t, step (validState true) = .next t) :=
  ⟨⟨validState_valid false, validState_steps false⟩, validState_valid true, validState_steps true⟩

/-- A response outstanding and two quiet edges before one that presents a command. -/
def waitingState : State :=
  { start 7 true with
    pending := some { rsp := sampleResponse, age := 1 }
    inputs := [idleEdge, idleEdge, nopEdge] }

theorem witness_ResponseArrivesAfterItsDelay :
    paramsLegal waitingState.params = true ∧ waitingState.held = none ∧
    waitingState.pending = some { rsp := sampleResponse, age := 1 } ∧ (∀ e ∈ [idleEdge, idleEdge], QuietEdge e) ∧
    waitingState.inputs = [idleEdge, idleEdge] ++ [nopEdge] := by
  refine ⟨by decide, rfl, rfl, ?_, rfl⟩
  intro e he
  simp only [List.mem_cons, List.not_mem_nil, or_false, or_self] at he
  subst he
  exact ⟨rfl, rfl, rfl⟩

/-- Two instances, the first with a command presented and the second with a reset edge. -/
theorem witness_InstancesAreIndependent :
    ∃ a b a' b',
      System.stepAt 0 [{ start 7 true with inputs := [nopEdge] }, { start 8 true with inputs := [{ idleEdge with rst := true }] }]
        = .next a ∧
      System.stepAt 1 a = .next b ∧
      System.stepAt 1 [{ start 7 true with inputs := [nopEdge] }, { start 8 true with inputs := [{ idleEdge with rst := true }] }]
        = .next a' ∧
      System.stepAt 0 a' = .next b' :=
  ⟨_, _, _, _, rfl, rfl, rfl, rfl⟩

theorem witness_ReadSampleSendsExactlyOnSuccess :
    (∃ block : Option Driver.SampleBlock, block = none) ∧
    ∃ block : Option Driver.SampleBlock, block = some ⟨0x80#8, 0x00#8, 0x7F#8, 0xFF#8, 0xFF#8, 0xFF#8⟩ :=
  ⟨⟨_, rfl⟩, _, rfl⟩

theorem witness_DecodedLaneFeedsUpdate : paramsLegal State.reset.params = true := by decide

theorem witness_UpdateSiNeverRounds :
    Asm.assemble (.updateSi ⟨true, 0, [0, 5]⟩ ⟨false, 0, [0, 0, 0, 0, 0, 1]⟩) = some 0x04FFFF3CB000000001#72 := by decide

end Sys2Proof.Tests
end

section
/-! PROOFS. The decode fits in a signed 32-bit field on every legal instance (R6, R7, R10). -/

namespace Sys2Proof.Machine

/-- A legal instance in the words of R6 and R7. -/
theorem paramsLegal_iff (p : Params) :
    paramsLegal p = true ↔
      1 ≤ p.sens ∧ p.dzUm ≤ 2 ^ 31 - 1 ∧ 2 * 32768 * p.gravUm + p.sens < 2 ^ 32 * p.sens := by
  simp only [paramsLegal, Bool.and_eq_true, decide_eq_true_eq, and_assoc]

/-- Rounding the magnitude of a raw word: a value that is not negative, and at most half a `SENS` above the exact one. -/
theorem conv_nonneg {p : Params} {r : Int} (hp : 1 ≤ p.sens) (hr : 0 ≤ r) :
    0 ≤ conv p r ∧ 2 * (conv p r * p.sens) ≤ 2 * (r * p.gravUm) + p.sens := by
  obtain ⟨h0, -, h⟩ := roundHalfAway_nonneg (mul_nonneg hr (Int.natCast_nonneg p.gravUm)) hp
  exact ⟨h0, h⟩

/-- `conv` is odd, so its magnitude is `conv` of the magnitude. -/
theorem abs_conv {p : Params} (hp : 1 ≤ p.sens) (r : Int) : |conv p r| = conv p |r| := by
  rcases le_total 0 r with hr | hr
  · rw [abs_of_nonneg hr, abs_of_nonneg (conv_nonneg hp hr).1]
  · have hneg : 0 ≤ conv p (-r) := (conv_nonneg hp (neg_nonneg.2 hr)).1
    rw [abs_of_nonpos hr, ← abs_of_nonneg hneg, conv_neg hp, abs_neg]

/-- R7's derivation with the bound left open: when the exact magnitude of the most negative raw word, rounded, is at most
`b`, so is that of every 16-bit raw word. R7's own constraint is the case `b = 2^31 - 1`. -/
theorem abs_conv_le {p : Params} {r b : Int} (hp : 1 ≤ p.sens) (hr : |r| ≤ 32768)
    (hb : 2 * 32768 * (p.gravUm : Int) + p.sens < 2 * (b + 1) * p.sens) : |conv p r| ≤ b := by
  rw [abs_conv hp]
  have hround : 2 * (conv p |r| * p.sens) ≤ 2 * (|r| * p.gravUm) + p.sens := (conv_nonneg hp (abs_nonneg r)).2
  have hscale : |r| * (p.gravUm : Int) ≤ 32768 * p.gravUm := mul_le_mul_of_nonneg_right hr (Int.natCast_nonneg _)
  have hlt : conv p |r| * p.sens < (b + 1) * p.sens := by linarith
  exact Int.lt_add_one_iff.1 (lt_of_mul_lt_mul_right hlt (Int.natCast_nonneg p.sens))

theorem abs_raw16_le (hi lo : Byte) : |raw16 hi lo| ≤ 32768 := by
  obtain ⟨hlo, hhi⟩ := raw16_range hi lo
  exact abs_le.2 ⟨hlo, by omega⟩

/-- R7: on a legal instance every decoded axis is a signed 32-bit number, and never the most negative one. -/
theorem abs_conv_raw16_le_of_legal {p : Params} (hi lo : Byte) (h : paramsLegal p = true) :
    |conv p (raw16 hi lo)| ≤ 2 ^ 31 - 1 := by
  obtain ⟨hsens, -, hgrav⟩ := (paramsLegal_iff p).1 h
  exact abs_conv_le hsens (abs_raw16_le hi lo) (by omega)

theorem abs_conv_default_raw16_le (hi lo : Byte) : |conv Params.default (raw16 hi lo)| ≤ 19620000 :=
  abs_conv_le (by decide) (abs_raw16_le hi lo) (by decide)

/-- Settles O17: by R7's derivation, rounding of the largest magnitude, for the parameters' own bound and for the
defaults'. -/
theorem legalParamsMakeDecodeFit : Obligations.LegalParamsMakeDecodeFit :=
  ⟨paramsLegal_iff, fun _ hi lo h => abs_le.1 (abs_conv_raw16_le_of_legal hi lo h), by decide,
    abs_conv_default_raw16_le, by decide⟩

end Sys2Proof.Machine
end

section
/-! PROOFS. What each command, a hardware reset and a response say about `OVF` (R16). -/

namespace Sys2Proof.Machine

theorem satFlag_sat64_iff (n : Int) : satFlag (sat64 n) n = true ↔ OutOfRange n := by
  rw [satFlag_eq_true_iff, ne_eq, sat64_eq_iff, OutOfRange]
  omega

/-- UPDATE's `OVF`: the old flag, or an exact sum that leaves the signed 64-bit range (R16, R55). -/
theorem exec_update_ovf_iff {acc dt : Word32} {s t : State} (h : exec (.update acc dt) s = .next t) :
    t.ovf = true ↔
      s.ovf = true ∨ OutOfRange (s.lastVel.toInt + effAccel s.params acc.toInt * dt.toInt) := by
  rw [exec_update] at h
  cases h
  rw [← exactSum_def, ← satFlag_sat64_iff]
  exact Bool.or_eq_true_iff

theorem exec_readOnly_ovf {i : Instr} {s t : State} (hreset : i ≠ .reset) (hupdate : ∀ acc dt, i ≠ .update acc dt)
    (h : exec i s = .next t) : t.ovf = s.ovf := by
  obtain ⟨r, hr, -⟩ := exec_readOnly hreset hupdate s
  rw [hr] at h
  cases h
  rfl

theorem exec_reset_ovf {s t : State} (h : exec .reset s = .next t) : t.ovf = false := by
  rw [exec_reset] at h
  cases h
  rfl

/-- Only RESET takes `OVF` down. -/
theorem exec_keeps_ovf {i : Instr} {s t : State} (h : exec i s = .next t) (hreset : i ≠ .reset) (hs : s.ovf = true) :
    t.ovf = true := by
  by_cases hupdate : ∃ acc dt, i = .update acc dt
  · obtain ⟨acc, dt, rfl⟩ := hupdate
    exact (exec_update_ovf_iff h).2 (.inl hs)
  · push Not at hupdate
    exact (exec_readOnly_ovf hreset hupdate h).trans hs

/-- Only UPDATE takes `OVF` up: RESET leaves it 0, and every other command leaves it as it was. -/
theorem update_of_exec_sets_ovf {i : Instr} {s t : State} (h : exec i s = .next t) (hs : s.ovf = false)
    (ht : t.ovf = true) : ∃ acc dt, i = .update acc dt := by
  by_contra! hupdate
  have hclear : t.ovf = false := by
    by_cases hreset : i = .reset
    · subst hreset
      exact exec_reset_ovf h
    · exact (exec_readOnly_ovf hreset hupdate h).trans hs
  exact Bool.false_ne_true (hclear.symm.trans ht)

/-- A hardware reset edge clears `OVF` (R78), whatever the host presents with it. -/
theorem step_resetEdge_ovf {s t : State} (hedge : resetEdge s = true) (h : step s = .next t) : t.ovf = false := by
  obtain ⟨-, ⟨hin, -⟩ | ⟨e, rest, hin, ⟨-, rfl⟩ | ⟨hrst, -⟩⟩⟩ := step_cases h
  · simp [resetEdge, hin] at hedge
  · rfl
  · simp [resetEdge, hin, hrst] at hedge

/-- The response to any word, a rejected one included, carries `OVF` as it stands at the end of the command (R16). -/
theorem runCommand_response_ovf {c : CmdWord} {s t : State} {p : Pending} (h : runCommand c s = .next t)
    (hp : t.pending = some p) : p.rsp.status.ovf = t.ovf := by
  obtain ⟨r, v, l, o, hr, ho, -⟩ := runCommand_shape c s
  rw [hr] at h
  cases h
  cases hp
  exact ho

/-- Settles O24: the six clauses of R16, a lemma each. -/
theorem ovfIsSticky : Obligations.OvfIsSticky := by
  refine ⟨fun _ _ _ h => exec_keeps_ovf h, ?_, fun _ _ _ h => update_of_exec_sets_ovf h, fun _ _ h => exec_reset_ovf h,
    fun _ _ hedge h => step_resetEdge_ovf hedge h, ?_⟩
  · intro acc dt s t h hs
    simpa [hs] using exec_update_ovf_iff h
  · intro c s t p h hp
    rw [toByte_ovf, runCommand_response_ovf h hp]

end Sys2Proof.Machine
end

section
/-! PROOFS. The response of a command word: the flags of its STATUS byte (R40) and the layout of its RESULT (R41). -/

namespace Sys2Proof.Machine

theorem runCommand_ok {c : CmdWord} {i : Instr} (hd : decodeWord c = .ok i) (s : State) :
    runCommand c s = exec i s := by
  simp only [runCommand, hd]

theorem runCommand_error {c : CmdWord} {e : DecodeError} (hd : decodeWord c = .error e) (s : State) :
    runCommand c s = .next (respondError e s) := by
  simp only [runCommand, hd]

/-- An outcome that owes `r` leaves exactly the state that owes it, and `r` is the response outstanding there. -/
theorem eq_of_next_respond {o : Host.Outcome State Fault Refusal} {r : Response} {s t : State} {p : Pending}
    (ho : o = .next (respond r s)) (h : o = .next t) (hp : t.pending = some p) : t = respond r s ∧ p.rsp = r := by
  rw [ho] at h
  cases h
  cases hp
  exact ⟨rfl, rfl⟩

/-! The flags. -/

/-- UPDATE reports saturation and suppression, and never a detection (R55). -/
theorem exec_update_flags {acc dt : Word32} {s t : State} {p : Pending} (h : exec (.update acc dt) s = .next t)
    (hp : t.pending = some p) :
    p.rsp.status.det = false ∧
    (p.rsp.status.sat = true ↔ OutOfRange (s.lastVel.toInt + effAccel s.params acc.toInt * dt.toInt)) ∧
    (p.rsp.status.dz = true ↔ -(s.params.dzUm : Int) < acc.toInt ∧ acc.toInt < (s.params.dzUm : Int)) := by
  obtain ⟨-, hr⟩ := eq_of_next_respond (exec_update acc dt s) h hp
  rw [hr]
  exact ⟨rfl, satFlag_sat64_iff _, dzFlag_eq_true_iff _ _⟩

/-- Every other command reports neither, and only IDCHK can report a detection (R49, R56). -/
theorem exec_flags_of_not_update {i : Instr} {s t : State} {p : Pending} (hupdate : ∀ acc dt, i ≠ .update acc dt)
    (h : exec i s = .next t) (hp : t.pending = some p) :
    (p.rsp.status.det = true ↔ ∃ idb, i = .idchk idb ∧ idb = s.params.ident) ∧
    p.rsp.status.sat = false ∧ p.rsp.status.dz = false := by
  by_cases hreset : i = .reset
  · subst hreset
    obtain ⟨-, hr⟩ := eq_of_next_respond (exec_reset s) h hp
    rw [hr]
    exact ⟨by simp [resetResponse, plainStatus], rfl, rfl⟩
  · obtain ⟨r, hexec, -, -, hsat, hdz, hdet, -⟩ := exec_readOnly hreset hupdate s
    obtain ⟨-, hr⟩ := eq_of_next_respond hexec h hp
    rw [hr]
    exact ⟨hdet, hsat, hdz⟩

/-- When each flag of a command's response is 1 (R40). -/
theorem exec_flags {i : Instr} {s t : State} {p : Pending} (h : exec i s = .next t) (hp : t.pending = some p) :
    (p.rsp.status.det = true ↔ ∃ idb, i = .idchk idb ∧ idb = s.params.ident) ∧
    (p.rsp.status.sat = true ↔ ∃ acc dt, i = .update acc dt ∧
      OutOfRange (s.lastVel.toInt + effAccel s.params acc.toInt * dt.toInt)) ∧
    (p.rsp.status.dz = true ↔ ∃ acc dt, i = .update acc dt ∧
      -(s.params.dzUm : Int) < acc.toInt ∧ acc.toInt < (s.params.dzUm : Int)) := by
  by_cases hupdate : ∃ acc dt, i = .update acc dt
  · obtain ⟨acc, dt, rfl⟩ := hupdate
    obtain ⟨hdet, hsat, hdz⟩ := exec_update_flags h hp
    exact ⟨by simp [hdet], by simp [hsat], by simp [hdz]⟩
  · push Not at hupdate
    obtain ⟨hdet, hsat, hdz⟩ := exec_flags_of_not_update hupdate h hp
    exact ⟨hdet, by simp [hsat, hupdate], by simp [hdz, hupdate]⟩

/-- Settles O25: the bit places of the STATUS byte, and its flags after a word that executes or is rejected. -/
theorem statusByteFields : Obligations.StatusByteFields := by
  refine ⟨fun st => ⟨toByte_ovf st, toByte_det st, toByte_sat st, toByte_dz st, ?_⟩,
    fun c s t p h hp => ⟨runCommand_response_ovf h hp, ?_⟩⟩
  · rw [toByte_code]
    cases st.code <;> rfl
  · cases hd : decodeWord c with
    | ok i =>
      rw [runCommand_ok hd] at h
      simpa only [Decoded.ok.injEq] using exec_flags h hp
    | error e =>
      obtain ⟨-, hr⟩ := eq_of_next_respond (runCommand_error hd s) h hp
      simp [hr, errorResponse, plainStatus]

/-! The layout of RESULT. -/

/-- DECODE: the three converted axes, X highest (R41, R50). -/
theorem exec_decode_result {b0 b1 b2 b3 b4 b5 : Byte} {s t : State} {p : Pending}
    (h : exec (.decode b0 b1 b2 b3 b4 b5) s = .next t) (hp : t.pending = some p) :
    p.rsp.result = laneResult (bits 32 (conv s.params (raw16 b0 b1))) (bits 32 (conv s.params (raw16 b2 b3)))
      (bits 32 (conv s.params (raw16 b4 b5))) :=
  congrArg Response.result (eq_of_next_respond rfl h hp).2

/-- DECRAW: the three raw words, sign-extended, X highest (R41, R51). -/
theorem exec_decraw_result {b0 b1 b2 b3 b4 b5 : Byte} {s t : State} {p : Pending}
    (h : exec (.decraw b0 b1 b2 b3 b4 b5) s = .next t) (hp : t.pending = some p) :
    p.rsp.result = laneResult ((joinBytes b0 b1).signExtend 32) ((joinBytes b2 b3).signExtend 32)
      ((joinBytes b4 b5).signExtend 32) := by
  obtain ⟨-, hr⟩ := eq_of_next_respond rfl h hp
  rw [hr, ← rawLane_raw16, ← rawLane_raw16, ← rawLane_raw16]
  rfl

/-- UPDATE returns the registers it has just written (R41, R55). -/
theorem exec_update_result {acc dt : Word32} {s t : State} {p : Pending} (h : exec (.update acc dt) s = .next t)
    (hp : t.pending = some p) : p.rsp.result = velocityResult t.lastVel t.vel := by
  obtain ⟨rfl, hr⟩ := eq_of_next_respond (exec_update acc dt s) h hp
  rw [hr]
  rfl

/-- QUERY returns the registers, which it leaves as they are (R41, R57). -/
theorem exec_query_result {s t : State} {p : Pending} (h : exec .query s = .next t) (hp : t.pending = some p) :
    p.rsp.result = velocityResult t.lastVel t.vel := by
  obtain ⟨rfl, hr⟩ := eq_of_next_respond rfl h hp
  rw [hr]
  rfl

/-- Settles O26: R41's table, a row for the rejected words and one for each command. -/
theorem resultLayoutByCommand : Obligations.ResultLayoutByCommand := by
  intro c s t p h hp
  cases hd : decodeWord c with
  | error e => exact congrArg Response.result (eq_of_next_respond (runCommand_error hd s) h hp).2
  | ok i =>
    rw [runCommand_ok hd] at h
    cases i with
    | nop => exact congrArg Response.result (eq_of_next_respond rfl h hp).2
    | idchk idb => exact congrArg Response.result (eq_of_next_respond rfl h hp).2
    | decode b0 b1 b2 b3 b4 b5 => simp [exec_decode_result h hp, bits]
    | decraw b0 b1 b2 b3 b4 b5 => simp [exec_decraw_result h hp, joinBytes]
    | update acc dt => simp [exec_update_result h hp]
    | reset => exact congrArg Response.result (eq_of_next_respond (exec_reset s) h hp).2
    | query => simp [exec_query_result h hp]

end Sys2Proof.Machine
end

section
/-! PROOFS. The number functions of the register decoder: the raw word of two bytes (R47), and rounding half away from
zero (R10, R48). -/

namespace Sys2Proof.Machine

theorem toNat_joinBytes (hi lo : Byte) : (joinBytes hi lo).toNat = 256 * hi.toNat + lo.toNat := by
  rw [joinBytes, BitVec.toNat_append, ← Nat.shiftLeft_add_eq_or_of_lt lo.isLt, Nat.shiftLeft_eq, mul_comm]

/-- The sign of a raw word is the top bit of its high byte. -/
theorem msb_joinBytes (hi lo : Byte) : (joinBytes hi lo).msb = hi.getLsbD 7 := by
  rw [joinBytes, BitVec.msb_append, if_neg (by decide), BitVec.msb_eq_getLsbD_last]

/-- The two formulas of R47. -/
theorem raw16_eq (hi lo : Byte) :
    raw16 hi lo =
      if hi.getLsbD 7 then 256 * (hi.toNat : Int) + lo.toNat - 65536 else 256 * (hi.toNat : Int) + lo.toNat := by
  rw [raw16, sint, BitVec.toInt_eq_msb_cond, msb_joinBytes, toNat_joinBytes]
  push_cast
  rfl

/-- Settles O15: by the sign and the unsigned value of the joined bytes. -/
theorem rawWordIsTwosComplement : Obligations.RawWordIsTwosComplement :=
  ⟨fun hi lo => ⟨raw16_eq hi lo, raw16_range hi lo⟩, by decide, by decide, by decide, by decide⟩

/-- `round_half_away(n, d)` times `d` is within half of `d` of `n`, and an exact half lies further from zero than `n`. -/
theorem roundHalfAway_nearest (n : Int) {d : Nat} (hd : 1 ≤ d) :
    2 * |roundHalfAway n d * d - n| ≤ d ∧
    (2 * |roundHalfAway n d * d - n| = d → |n| < |roundHalfAway n d * d|) := by
  wlog hn : 0 ≤ n generalizing n with nonneg
  · have hreflect : roundHalfAway (-n) d * d - -n = -(roundHalfAway n d * d - n) := by
      rw [roundHalfAway_neg n hd]
      ring
    have h := nonneg (-n) (by omega)
    rwa [hreflect, roundHalfAway_neg n hd, neg_mul, abs_neg, abs_neg, abs_neg] at h
  · obtain ⟨hq, hlo, hhi⟩ := roundHalfAway_nonneg hn hd
    rw [abs_of_nonneg hn, abs_of_nonneg (mul_nonneg hq (Int.natCast_nonneg d))]
    rcases abs_cases (roundHalfAway n d * d - n) with ⟨h, -⟩ | ⟨h, -⟩ <;> omega

/-- A common factor of the two operands cancels. -/
theorem roundHalfAway_mul_right (n : Int) {d k : Nat} (hd : 1 ≤ d) (hk : 1 ≤ k) :
    roundHalfAway (n * k) (d * k) = roundHalfAway n d := by
  have hdk : 1 ≤ d * k := Nat.mul_pos hd hk
  wlog hn : 0 ≤ n generalizing n with nonneg
  · have h := nonneg (-n) (by omega)
    rwa [neg_mul, roundHalfAway_neg _ hdk, roundHalfAway_neg _ hd, neg_inj] at h
  · rw [roundHalfAway_eq_div hn hd, roundHalfAway_eq_div (mul_nonneg hn (Int.natCast_nonneg k)) hdk,
      ← Int.mul_ediv_mul_of_pos_left (2 * n + d) (2 * d) (Int.natCast_pos.2 hk)]
    push_cast
    congr 1 <;> ring

/-- With the default parameters (R48): `GRAV_UM` and `SENS` have the common factor 16. -/
theorem conv_default_reduced (r : Int) : conv Params.default r = roundHalfAway (r * 613125) 1024 :=
  calc roundHalfAway (r * 9810000) 16384
    _ = roundHalfAway (r * 613125 * (16 : Nat)) (1024 * 16) := by rw [mul_assoc]; rfl
    _ = roundHalfAway (r * 613125) 1024 := roundHalfAway_mul_right _ (by decide) (by decide)

/-- Settles O16: `conv` is one `round_half_away`, which rounds to the nearest and cancels a common factor. -/
theorem convRoundsToNearestTiesAway : Obligations.ConvRoundsToNearestTiesAway :=
  ⟨fun _ _ => rfl, fun p r hp => roundHalfAway_nearest (r * p.gravUm) hp, conv_default_reduced⟩

end Sys2Proof.Machine
end

section
/-! PROOFS. The decoder's answer to a word of a given opcode, in the bits of the word itself (R34 to R36, R65). -/

namespace Sys2Proof

theorem decodeWord_of_reserved {c : CmdWord} {o : Opcode} (hop : opField c = o.toByte)
    (hm : payloadField c &&& o.format.rmask ≠ 0#64) : decodeWord c = .error .reservedNonzero := by
  simp [decodeWord, hop, hm]

theorem decodeWord_of_not_reserved {c : CmdWord} {o : Opcode} (hop : opField c = o.toByte)
    (hm : payloadField c &&& o.format.rmask = 0#64) : decodeWord c = .ok (o.assemble (payloadField c)) := by
  rw [← commandWord_fields hop, decodeWord_commandWord o _ hm, payloadField_commandWord]

/-- Byte `k` of the payload is byte `k` of the word (R34). -/
theorem payloadByte_payloadField (c : CmdWord) {k : Nat} (hk : k < 8) :
    payloadByte (payloadField c) k = c.extractLsb' (8 * k) 8 := by
  ext i hi
  simp [payloadByte, payloadField, show 8 * k + i < 64 by omega]

/-- A mask of the payload bits from `k` up meets none of them exactly when that field of the word is 0. -/
theorem payloadField_and_shiftLeft_eq_zero_iff (c : CmdWord) {k n : Nat} (hkn : k + n = 64) :
    payloadField c &&& BitVec.allOnes 64 <<< k = 0#64 ↔ c.extractLsb' k n = 0#n := by
  simp only [BitVec.eq_of_getLsbD_eq_iff, payloadField, BitVec.getLsbD_and, BitVec.getLsbD_shiftLeft,
    BitVec.getLsbD_extractLsb', BitVec.getLsbD_allOnes, BitVec.getLsbD_zero]
  constructor
  · intro h i hi
    have hbit := h (k + i) (by omega)
    simpa [hi, show k + i < 64 by omega, show i < 64 by omega] using hbit
  · intro h i hi
    by_cases hik : i < k
    · simp [hik]
    · have hbit := h (i - k) (by omega)
      simp_all [show i - k < n by omega, show k + (i - k) = i by omega]

/-- Format I: the reserved bits are `P[63:8]` (R36, R65). -/
theorem rmask_I_eq_zero_iff (c : CmdWord) :
    payloadField c &&& Format.rmask .I = 0#64 ↔ c.extractLsb' 8 56 = 0#56 :=
  payloadField_and_shiftLeft_eq_zero_iff c (k := 8) rfl

/-- Format S: the reserved bits are `P[63:48]` (R36, R65). -/
theorem rmask_S_eq_zero_iff (c : CmdWord) :
    payloadField c &&& Format.rmask .S = 0#64 ↔ c.extractLsb' 48 16 = 0#16 :=
  payloadField_and_shiftLeft_eq_zero_iff c (k := 48) rfl

/-- IDCHK's word: its payload is the identity byte under 56 zero bits (R36, R45). -/
theorem encode_idchk_fields (idb : Byte) :
    opField (encode (.idchk idb)) = 0x01#8 ∧ (encode (.idchk idb)).extractLsb' 8 56 = 0#56 ∧
    (encode (.idchk idb)).extractLsb' 0 8 = idb := by
  have hp : payloadField (encode (.idchk idb)) = (0#56 ++ idb : BitVec (56 + 8)) := payloadField_commandWord _ _
  refine ⟨opField_commandWord _ _, ?_, ?_⟩
  · rw [← rmask_I_eq_zero_iff, hp]
    exact idPayload_reserved idb
  · rw [← payloadByte_payloadField _ (k := 0) (by decide), hp]
    exact BitVec.extractLsb'_append_eq_right

theorem decodeWord_idchk {c : CmdWord} (hop : opField c = 0x01#8) (hres : c.extractLsb' 8 56 = 0#56) :
    decodeWord c = .ok (.idchk (c.extractLsb' 0 8)) := by
  rw [decodeWord_of_not_reserved (o := .idchk) hop ((rmask_I_eq_zero_iff c).2 hres), Opcode.assemble,
    payloadByte_payloadField c (by decide)]

theorem decodeWord_decode {c : CmdWord} (hop : opField c = 0x02#8) (hres : c.extractLsb' 48 16 = 0#16) :
    decodeWord c = .ok (.decode (c.extractLsb' 40 8) (c.extractLsb' 32 8) (c.extractLsb' 24 8) (c.extractLsb' 16 8)
      (c.extractLsb' 8 8) (c.extractLsb' 0 8)) := by
  rw [decodeWord_of_not_reserved (o := .decode) hop ((rmask_S_eq_zero_iff c).2 hres)]
  simp [Opcode.assemble, payloadByte_payloadField]

theorem decodeWord_decraw {c : CmdWord} (hop : opField c = 0x03#8) (hres : c.extractLsb' 48 16 = 0#16) :
    decodeWord c = .ok (.decraw (c.extractLsb' 40 8) (c.extractLsb' 32 8) (c.extractLsb' 24 8) (c.extractLsb' 16 8)
      (c.extractLsb' 8 8) (c.extractLsb' 0 8)) := by
  rw [decodeWord_of_not_reserved (o := .decraw) hop ((rmask_S_eq_zero_iff c).2 hres)]
  simp [Opcode.assemble, payloadByte_payloadField]

end Sys2Proof
end

section
/-! PROOFS. The register decoder's commands: IDCHK, DECODE and DECRAW (R49 to R51). -/

namespace Sys2Proof.Machine

/-- On a legal instance a DECODE lane holds its converted axis without loss (R7, R50). -/
theorem toInt_bits_conv_raw16 {p : Params} (hp : paramsLegal p = true) (hi lo : Byte) :
    (bits 32 (conv p (raw16 hi lo))).toInt = conv p (raw16 hi lo) := by
  obtain ⟨hlo, hhi⟩ := abs_le.1 (abs_conv_raw16_le_of_legal hi lo hp)
  exact toInt_bits (by decide) (by omega) (by omega)

/-- Settles O10: each lane holds its axis without loss, by R7; the words by the reserved bits of format S. -/
theorem decodeGivesPhysicalUnits : Obligations.DecodeGivesPhysicalUnits := by
  refine ⟨fun b0 b1 b2 b3 b4 b5 s hp => ?_,
    fun c hop hres => decodeWord_of_reserved (o := .decode) hop (mt (rmask_S_eq_zero_iff c).1 hres),
    fun c hop hres => decodeWord_decode hop hres, by decide⟩
  refine ⟨_, _, rfl, rfl, rfl, laneResult_pad _ _ _, ?_⟩
  simp [decodeResponse, toInt_bits_conv_raw16 hp]

/-- Settles O11: each lane holds its sign-extended raw word; the words by the reserved bits of format S. -/
theorem decrawGivesRawWords : Obligations.DecrawGivesRawWords := by
  refine ⟨fun b0 b1 b2 b3 b4 b5 s => ?_,
    fun c hop hres => decodeWord_of_reserved (o := .decraw) hop (mt (rmask_S_eq_zero_iff c).1 hres),
    fun c hop hres => decodeWord_decraw hop hres⟩
  refine ⟨_, _, rfl, rfl, rfl, laneResult_pad _ _ _, ?_⟩
  simp [decrawResponse, toInt_rawLane]

/-- Settles O9: the word's fields, the response by the definition of DET, and the reserved bits of format I. -/
theorem idchkComparesIdentity : Obligations.IdchkComparesIdentity :=
  ⟨encode_idchk_fields, fun _ _ => ⟨_, rfl, rfl, rfl, rfl, rfl⟩,
    fun c hop hres => decodeWord_of_reserved (o := .idchk) hop (mt (rmask_I_eq_zero_iff c).1 hres),
    fun _ hop hres => decodeWord_idchk hop hres, rfl⟩

end Sys2Proof.Machine
end

section
/-! PROOFS. The integrator's words: format Z reserves every payload bit, format U none (R36, R65). -/

namespace Sys2Proof

/-- Format Z: every payload bit is reserved (R36, R65). -/
theorem rmask_Z_eq_zero_iff (c : CmdWord) :
    payloadField c &&& Format.rmask .Z = 0#64 ↔ c.extractLsb' 0 64 = 0#64 :=
  payloadField_and_shiftLeft_eq_zero_iff c (k := 0) rfl

/-- UPDATE: no payload bit is reserved, so every word with its opcode decodes (R55). -/
theorem decodeWord_update {c : CmdWord} (hop : opField c = 0x04#8) :
    decodeWord c = .ok (.update (c.extractLsb' 32 32) (c.extractLsb' 0 32)) := by
  rw [decodeWord_of_not_reserved (o := .update) hop BitVec.and_zero, Opcode.assemble,
    payloadField, BitVec.extractLsb'_extractLsb'_of_le (by decide), BitVec.extractLsb'_extractLsb'_of_le (by decide)]

end Sys2Proof
end

section
/-! PROOFS. The deadzone gate (R53), and the recurrence with its clamp (R54). -/

namespace Sys2Proof.Machine

theorem dzFlag_eq_false_iff (p : Params) (a : Int) :
    dzFlag p a = false ↔ ¬(-(p.dzUm : Int) < a ∧ a < (p.dzUm : Int)) := by
  rw [← dzFlag_eq_true_iff, Bool.not_eq_true]

/-- The gate in the words of R53. -/
theorem effAccel_eq_ite (p : Params) (a : Int) :
    effAccel p a = if -(p.dzUm : Int) < a ∧ a < (p.dzUm : Int) then 0 else a := by
  simp only [effAccel, dzFlag_eq_true_iff]

/-- Settles O19: each clause is the gate's interval at the acceleration it speaks of. -/
theorem deadzoneIsOpenInterval : Obligations.DeadzoneIsOpenInterval := by
  refine ⟨fun p a => ⟨fun hin => ?_, fun hout => ?_⟩, fun p => ⟨?_, ?_⟩, fun p hp => ?_, fun p a hp => ?_, fun a => ?_⟩
  · have hdz := (dzFlag_eq_true_iff p a).2 hin
    exact ⟨effAccel_of_dz hdz, hdz⟩
  · have hdz := (dzFlag_eq_false_iff p a).2 hout
    exact ⟨effAccel_of_not_dz hdz, hdz⟩
  · rw [dzFlag_eq_false_iff]; omega
  · rw [dzFlag_eq_false_iff]; omega
  · rw [dzFlag_eq_true_iff]; omega
  · rw [dzFlag_eq_false_iff]; omega
  · have hdefault : (Params.default.dzUm : Int) = 50000 := rfl
    rw [dzFlag_eq_true_iff, hdefault]; omega

/-- The gate never enlarges an acceleration. -/
theorem abs_effAccel_le (p : Params) (a : Int) : |effAccel p a| ≤ |a| := by
  rcases effAccel_cases p a with h | h
  · rw [h, abs_zero]
    exact abs_nonneg a
  · rw [h]

theorem abs_toInt_word32_le (w : Word32) : |w.toInt| ≤ 2 ^ 31 :=
  abs_le.2 ⟨BitVec.le_toInt w, (BitVec.toInt_lt (x := w)).le⟩

/-- The product of the recurrence: two signed 32-bit factors (R54). -/
theorem abs_effAccel_mul_le (p : Params) (acc dt : Word32) : |effAccel p acc.toInt * dt.toInt| ≤ 2 ^ 62 := by
  have hacc : |effAccel p acc.toInt| ≤ 2 ^ 31 := (abs_effAccel_le p _).trans (abs_toInt_word32_le acc)
  calc |effAccel p acc.toInt * dt.toInt|
    _ = |effAccel p acc.toInt| * |dt.toInt| := abs_mul _ _
    _ ≤ 2 ^ 31 * 2 ^ 31 := mul_le_mul hacc (abs_toInt_word32_le dt) (abs_nonneg _) (by decide)
    _ = 2 ^ 62 := by norm_num

theorem sat64_of_above {n : Int} (h : 2 ^ 63 - 1 < n) : sat64 n = 2 ^ 63 - 1 := if_pos h

theorem sat64_of_below {n : Int} (h : n < -2 ^ 63) : sat64 n = -2 ^ 63 := by
  rw [sat64, if_neg (by omega), if_pos h]

/-- Settles O20: the sum's bounds from the product's and the register's, then the clamp by its own laws. -/
theorem recurrenceIsExactOrClamped : Obligations.RecurrenceIsExactOrClamped := by
  rintro p acc dt last prod sum hprod rfl
  have hbound : |prod| ≤ 2 ^ 62 := hprod ▸ abs_effAccel_mul_le p acc dt
  have hsum : exactSum (effAccel p acc.toInt) dt.toInt last = last.toInt + prod := by rw [exactSum_def, hprod]
  obtain ⟨hlo, hhi⟩ := abs_le.1 hbound
  have hlast := BitVec.le_toInt last
  have hlast' := BitVec.toInt_lt (x := last)
  exact ⟨hbound, hsum, by omega, by omega, (satFlag_eq_false_iff _ _).1, satFlag_sat64_iff _, sat64_of_above,
    sat64_of_below, toInt_bits_sat64 _⟩

end Sys2Proof.Machine
end

section
/-! PROOFS. The integrator's commands that write it: UPDATE and RESET (R55, R56). -/

namespace Sys2Proof.Machine

theorem satFlag_eq_decide (v n : Int) : satFlag v n = decide (v ≠ n) := by
  rw [Bool.eq_iff_iff, satFlag_eq_true_iff, decide_eq_true_iff]

/-- Settles O12: R55 names the gate, the exact sum and the clamp of `exec_update`; format U reserves no bit. -/
theorem updateIntegratesOneStep : Obligations.UpdateIntegratesOneStep := by
  refine ⟨fun acc dt s a aEff sum v ha haEff hsum hv => ?_, fun c hop => decodeWord_update hop⟩
  have hgate : aEff = effAccel s.params acc.toInt := by rw [haEff, ha, effAccel_eq_ite]
  have hexact : sum = exactSum (effAccel s.params acc.toInt) dt.toInt s.lastVel := by rw [hsum, hgate, exactSum_def]
  have hclamp : v = sat64 sum := hv
  rw [hclamp, ← satFlag_eq_decide, hexact, ha]
  exact ⟨_, exec_update acc dt s, toInt_bits_sat64 _, rfl, rfl, rfl⟩

/-- RESET with any reserved payload bit set is rejected (R56, R65). -/
theorem decodeWord_reset_reserved {c : CmdWord} (hop : opField c = 0x05#8) (hres : c.extractLsb' 0 64 ≠ 0#64) :
    decodeWord c = .error .reservedNonzero :=
  decodeWord_of_reserved (o := .reset) hop (mt (rmask_Z_eq_zero_iff c).1 hres)

/-- Settles O13: both RESETs by `exec_reset`, and a word with a reserved bit set by its error response. -/
theorem resetZeroesTheIntegrator : Obligations.ResetZeroesTheIntegrator := by
  refine ⟨by decide, fun s => ?_, fun c s hop hres => ?_⟩
  · exact ⟨_, exec_reset s, rfl, rfl, rfl, rfl, _, exec_reset _, rfl, rfl, rfl⟩
  · exact ⟨_, runCommand_error (decodeWord_reset_reserved hop hres) s, rfl, rfl, rfl, rfl⟩

end Sys2Proof.Machine
end

section
/-! PROOFS. Words that do not execute: the answer to a rejected word, and which words are rejected (R64, R65). -/

namespace Sys2Proof.Machine

/-- The answer to a rejected word: the code of its error, and no register written (R64, R65, R67). -/
theorem runCommand_error_answer {c : CmdWord} {e : DecodeError} (hd : decodeWord c = .error e) (s : State) :
    ∃ t, runCommand c s = .next t ∧
      t.pending.map (·.rsp) =
        some { status := { dz := false, sat := false, det := false, ovf := s.ovf, code := DecodeError.code e },
               result := 0#128 } ∧
      t.vel = s.vel ∧ t.lastVel = s.lastVel ∧ t.ovf = s.ovf :=
  ⟨respondError e s, runCommand_error hd s, rfl, rfl, rfl, rfl⟩

theorem decodeWord_of_unassigned {c : CmdWord} (hop : 7 ≤ (opField c).toNat) :
    decodeWord c = .error .illegalOpcode := by
  have hnone : Opcode.ofByte (opField c) = none := (Opcode.ofByte_eq_none_iff _).2 hop
  simp only [decodeWord, hnone]

/-- Settles O5: an opcode outside the assignment fails the decoder's first check, before the payload is looked at. -/
theorem unassignedOpcodeIsIllegal : Obligations.UnassignedOpcodeIsIllegal :=
  fun _ s hop => runCommand_error_answer (decodeWord_of_unassigned hop) s

/-- Settles O6: each row of the RMASK table is an opcode with the mask of its format, and the decoder rejects
a word of that opcode exactly when its payload meets the mask. -/
theorem reservedBitIsRejected : Obligations.ReservedBitIsRejected := by
  intro c s mask htable
  obtain ⟨o, hop, rfl⟩ : ∃ o : Opcode, opField c = o.toByte ∧ mask = o.format.rmask := by
    obtain ⟨hnop | hreset | hquery, hZ⟩ | ⟨hidchk, hI⟩ | ⟨hdecode | hdecraw, hS⟩ | ⟨hupdate, hU⟩ := htable
    · exact ⟨.nop, hnop, hZ⟩
    · exact ⟨.reset, hreset, hZ⟩
    · exact ⟨.query, hquery, hZ⟩
    · exact ⟨.idchk, hidchk, hI⟩
    · exact ⟨.decode, hdecode, hS⟩
    · exact ⟨.decraw, hdecraw, hS⟩
    · exact ⟨.update, hupdate, hU⟩
  exact ⟨fun hmeets => runCommand_error_answer (decodeWord_of_reserved hop hmeets) s,
    fun hclear => ⟨o.assemble (payloadField c), decodeWord_of_not_reserved hop hclear⟩⟩

end Sys2Proof.Machine
end

section
/-! PROOFS. The two resets (R77). -/

namespace Sys2Proof.Machine

/-- Settles O39: both resets go through `zeroIntegrator`, so they agree on the registers by definition. They part at the
port, where RESET responds and hardware reset drops what is outstanding. -/
theorem bothResetsLeaveSameRegisters : Obligations.BothResetsLeaveSameRegisters :=
  fun s => ⟨respond resetResponse (zeroIntegrator s), exec_reset s, rfl, rfl, rfl, hardwareReset_vel s,
    hardwareReset_lastVel s, hardwareReset_ovf s, hardwareReset_pending s, rfl⟩

end Sys2Proof.Machine
end

section
/-! PROOFS. The decoder against the encoder, and against the opcode table (R34 to R37, R42). -/

namespace Sys2Proof

/-- The encoder inverts the operand assembly of every payload whose reserved bits are clear (R36, R37). -/
theorem encode_assemble {o : Opcode} {p : Payload} (h : p &&& o.format.rmask = 0#64) :
    encode (o.assemble p) = commandWord o p := by
  have hZ (hz : p &&& Format.rmask .Z = 0#64) : p = 0#64 := by
    rw [← hz]
    exact BitVec.and_allOnes.symm
  cases o with
  | nop => rw [hZ h]; rfl
  | idchk => exact congrArg (commandWord .idchk) (idPayload_byte h)
  | decode => exact congrArg (commandWord .decode) (samplePayload_bytes h)
  | decraw => exact congrArg (commandWord .decraw) (samplePayload_bytes h)
  | update => exact congrArg (commandWord .update) (updatePayload_fields p)
  | reset => rw [hZ h]; rfl
  | query => rw [hZ h]; rfl

/-- Settles O2: a decoded word is its opcode and its payload, which the encoder puts together again. -/
theorem decodedWordIsTheEncoding : Obligations.DecodedWordIsTheEncoding := by
  intro c i h
  obtain ⟨-, hd⟩ | ⟨o, -, -, hd⟩ | ⟨o, ho, hm, hd⟩ := decodeWord_cases c
  · cases hd.symm.trans h
  · cases hd.symm.trans h
  · cases hd.symm.trans h
    rw [encode_assemble hm, commandWord_fields (Opcode.toByte_of_ofByte ho)]

/-- The decoder inverts the encoder, one case per format's payload (R36, R37). -/
theorem decodeWord_encode (i : Instr) : decodeWord (encode i) = .ok i := by
  cases i with
  | nop => exact decodeWord_commandWord .nop 0#64 rfl
  | idchk idb =>
    have hbyte : payloadByte (0#56 ++ idb : BitVec (56 + 8)) 0 = idb := BitVec.extractLsb'_append_eq_right
    rw [encode, decodeWord_commandWord .idchk _ (idPayload_reserved idb), Opcode.assemble, hbyte]
  | decode b0 b1 b2 b3 b4 b5 =>
    obtain ⟨h0, h1, h2, h3, h4, h5⟩ := payloadByte_samplePayload b0 b1 b2 b3 b4 b5
    rw [encode, decodeWord_commandWord .decode _ (samplePayload_reserved ..), Opcode.assemble, h0, h1, h2, h3, h4, h5]
  | decraw b0 b1 b2 b3 b4 b5 =>
    obtain ⟨h0, h1, h2, h3, h4, h5⟩ := payloadByte_samplePayload b0 b1 b2 b3 b4 b5
    rw [encode, decodeWord_commandWord .decraw _ (samplePayload_reserved ..), Opcode.assemble, h0, h1, h2, h3, h4, h5]
  | update acc dt =>
    rw [encode, decodeWord_commandWord .update _ BitVec.and_zero, Opcode.assemble,
      BitVec.extractLsb'_append_eq_left, BitVec.extractLsb'_append_eq_right]
  | reset => exact decodeWord_commandWord .reset 0#64 rfl
  | query => exact decodeWord_commandWord .query 0#64 rfl

/-- An opcode's row of the table, rebuilt from the rules: the opcode over a zero payload, under the opcode bits and the
reserved bits of the format (R35, R65). -/
def Opcode.row (o : Opcode) : OpRow :=
  { mnemonic := (o.assemble 0#64).mnemonic
    pattern := commandWord o 0#64
    mask := (0xFF#8 ++ o.format.rmask : BitVec (8 + 64)) }

/-- The opcode table is those rows, in the order of R35. -/
theorem opcodeTable_eq_rows :
    opcodeTable = [Opcode.nop, .idchk, .decode, .decraw, .update, .reset, .query].map Opcode.row := by decide

theorem Opcode.assemble_mnemonic (o : Opcode) (p : Payload) : (o.assemble p).mnemonic = o.row.mnemonic := by
  cases o <;> rfl

theorem ofByte_eq_some_iff (b : Byte) (o : Opcode) : Opcode.ofByte b = some o ↔ b = o.toByte :=
  ⟨Opcode.toByte_of_ofByte, fun h => h ▸ Opcode.ofByte_toByte o⟩

/-- Words are equal when their opcodes and their payloads are (R34). -/
theorem cmdWord_eq_iff (c d : CmdWord) : c = d ↔ opField c = opField d ∧ payloadField c = payloadField d := by
  have hsplit (x : CmdWord) : (opField x ++ payloadField x : BitVec (8 + 64)) = x :=
    (BitVec.extractLsb'_append_extractLsb'_eq_extractLsb' rfl).trans BitVec.extractLsb'_eq_self
  refine ⟨fun h => h ▸ ⟨rfl, rfl⟩, fun ⟨hop, hp⟩ => ?_⟩
  rw [← hsplit c, ← hsplit d, hop, hp]

theorem opField_and_rowMask (c : CmdWord) (o : Opcode) : opField (c &&& o.row.mask) = opField c := by
  have hmask : opField o.row.mask = BitVec.allOnes 8 := BitVec.extractLsb'_append_eq_left
  rw [opField, BitVec.extractLsb'_and]
  exact (congrArg (opField c &&& ·) hmask).trans BitVec.and_allOnes

theorem payloadField_and_rowMask (c : CmdWord) (o : Opcode) :
    payloadField (c &&& o.row.mask) = payloadField c &&& o.format.rmask := by
  have hmask : payloadField o.row.mask = o.format.rmask := BitVec.extractLsb'_append_eq_right
  rw [payloadField, BitVec.extractLsb'_and]
  exact congrArg (payloadField c &&& ·) hmask

/-- A row takes exactly the words for which the decoder's two checks pass with the row's opcode (R66). -/
theorem row_hits_iff (o : Opcode) (c : CmdWord) :
    o.row.hits c = true ↔ Opcode.ofByte (opField c) = some o ∧ payloadField c &&& o.format.rmask = 0#64 := by
  rw [OpRow.hits, beq_iff_eq, cmdWord_eq_iff, opField_and_rowMask, payloadField_and_rowMask, ofByte_eq_some_iff]
  simp only [Opcode.row, opField_commandWord, payloadField_commandWord]

/-- The mnemonics of the opcodes whose rows take the word. -/
theorem tableMnemonics_eq (c : CmdWord) :
    tableMnemonics c = (([Opcode.nop, .idchk, .decode, .decraw, .update, .reset, .query].filter
      (·.row.hits c)).map (·.row.mnemonic)) := by
  simp only [tableMnemonics, opcodeTable_eq_rows, List.filter_map, List.map_map, Function.comp_def]

theorem tableMnemonics_of_no_row {c : CmdWord} (h : ∀ o : Opcode, ¬o.row.hits c = true) : tableMnemonics c = [] := by
  simp [tableMnemonics_eq, h]

theorem tableMnemonics_of_row {c : CmdWord} {o : Opcode} (h : ∀ o' : Opcode, o'.row.hits c = decide (o' = o)) :
    tableMnemonics c = [o.row.mnemonic] := by
  simp only [tableMnemonics_eq, h]
  cases o <;> rfl

/-- Settles O3: a row takes a word exactly when the decoder's checks pass with its opcode, and a word has one opcode. -/
theorem decoderAgreesWithOpcodeTable : Obligations.DecoderAgreesWithOpcodeTable := by
  intro c
  obtain ⟨hnone, hd⟩ | ⟨o, ho, hm, hd⟩ | ⟨o, ho, hm, hd⟩ := decodeWord_cases c <;> rw [hd]
  · exact tableMnemonics_of_no_row fun o' hit => by simp [row_hits_iff, hnone] at hit
  · refine tableMnemonics_of_no_row fun o' hit => ?_
    obtain ⟨ho', hm'⟩ := (row_hits_iff o' c).1 hit
    cases ho.symm.trans ho'
    exact hm hm'
  · show tableMnemonics c = [(o.assemble (payloadField c)).mnemonic]
    rw [Opcode.assemble_mnemonic]
    refine tableMnemonics_of_row fun o' => ?_
    rw [Bool.eq_iff_iff, row_hits_iff, decide_eq_true_iff, ho, Option.some.injEq]
    exact ⟨fun h => h.1.symm, by rintro rfl; exact ⟨rfl, hm⟩⟩

/-- Settles O1: the decoder inverts the encoder, and the table agrees with the decoder on the encoded word. -/
theorem decodeOfEncodeIsTheInstruction : Obligations.DecodeOfEncodeIsTheInstruction := by
  intro i
  have htable := decoderAgreesWithOpcodeTable (encode i)
  rw [decodeWord_encode] at htable
  exact ⟨decodeWord_encode i, htable⟩

/-- Settles O4: the decoder run on each word. -/
theorem writtenOutWordsDecode : Obligations.WrittenOutWordsDecode := by
  unfold Obligations.WrittenOutWordsDecode
  decide

end Sys2Proof
end

section
/-! PROOFS. Every word is answered (R39, R63), NOP and QUERY (R57, R61), and the frames of the commands. -/

namespace Sys2Proof.Machine

/-- The code of a word's response says whether the word decodes (R40, R63). -/
theorem runCommand_code (c : CmdWord) (s : State) :
    ∃ r v l o, runCommand c s = .next (respond r { s with vel := v, lastVel := l, ovf := o }) ∧
      (r.status.code = .ok ↔ ∃ i, decodeWord c = .ok i) := by
  cases hd : decodeWord c with
  | ok i =>
    obtain ⟨r, v, l, o, hexec, -, hcode, -⟩ := exec_shape i s
    exact ⟨r, v, l, o, (runCommand_ok hd s).trans hexec, by simp [hcode]⟩
  | error e =>
    exact ⟨errorResponse e s.ovf, s.vel, s.lastVel, s.ovf, runCommand_error hd s, by
      cases e <;> simp [errorResponse, plainStatus, DecodeError.code]⟩

/-- Settles O7: the shape of an accepted word's answer, its code, and the layout of the response word. -/
theorem everyWordGetsOneResponse : Obligations.EveryWordGetsOneResponse := by
  intro c s
  obtain ⟨r, v, l, o, hrun, hcode⟩ := runCommand_code c s
  exact ⟨_, _, hrun, rfl, rfl, rfl, rfl, hcode, toWord_status r, toWord_result r⟩

/-- Settles O8: NOP's arm owes the response at once; the words by the reserved bits of format Z. -/
theorem nopReportsOvfOnly : Obligations.NopReportsOvfOnly :=
  ⟨by decide, fun _ => ⟨_, rfl, rfl, rfl, rfl, rfl⟩,
    fun c hop hres => decodeWord_of_reserved (o := .nop) hop (mt (rmask_Z_eq_zero_iff c).1 hres)⟩

/-- Settles O14: QUERY's arm owes both registers; the words by the reserved bits of format Z. -/
theorem queryReadsTheIntegrator : Obligations.QueryReadsTheIntegrator :=
  ⟨by decide, fun _ => ⟨_, rfl, rfl, rfl, rfl, rfl⟩,
    fun c hop hres => decodeWord_of_reserved (o := .query) hop (mt (rmask_Z_eq_zero_iff c).1 hres)⟩

/-- Settles O27: these commands only owe a response. -/
theorem readOnlyCommandsFrame : Obligations.ReadOnlyCommandsFrame := by
  intro i s t h hi
  have hreset : i ≠ .reset := by rintro rfl; simp at hi
  have hupdate : ∀ acc dt, i ≠ .update acc dt := by rintro acc dt rfl; simp at hi
  obtain ⟨r, hexec, -⟩ := exec_readOnly hreset hupdate s
  cases hexec.symm.trans h
  exact ⟨rfl, rfl⟩

/-- Settles O28: what every command may write. -/
theorem integratorCommandsFrame : Obligations.IntegratorCommandsFrame := by
  intro i s t h _
  obtain ⟨r, v, l, o, hexec, -⟩ := exec_shape i s
  cases hexec.symm.trans h
  exact ⟨rfl, rfl⟩

end Sys2Proof.Machine
end

section
/-! PROOFS. What a command's effect depends on (R18, R33, R50). -/

namespace Sys2Proof.Machine

/-- Every arm reads the parameters and the three registers alone: states that agree on those owe one response and take
the same register values (R33). -/
theorem exec_congr {s s' : State} (i : Instr) (hp : s.params = s'.params) (hv : s.vel = s'.vel)
    (hl : s.lastVel = s'.lastVel) (ho : s.ovf = s'.ovf) :
    ∃ r v l o, exec i s = .next (respond r { s with vel := v, lastVel := l, ovf := o }) ∧
      exec i s' = .next (respond r { s' with vel := v, lastVel := l, ovf := o }) := by
  obtain ⟨p, place, vel, lastVel, ovf, pending, held, inputs, delivered, accepted⟩ := s
  subst hp hv hl ho
  cases i <;> exact ⟨_, _, _, _, rfl, rfl⟩

theorem runCommand_congr {s s' : State} (c : CmdWord) (hp : s.params = s'.params) (hv : s.vel = s'.vel)
    (hl : s.lastVel = s'.lastVel) (ho : s.ovf = s'.ovf) :
    ∃ r v l o, runCommand c s = .next (respond r { s with vel := v, lastVel := l, ovf := o }) ∧
      runCommand c s' = .next (respond r { s' with vel := v, lastVel := l, ovf := o }) := by
  cases hd : decodeWord c with
  | ok i => simpa only [runCommand_ok hd] using exec_congr i hp hv hl ho
  | error e =>
    refine ⟨errorResponse e s.ovf, s.vel, s.lastVel, s.ovf, runCommand_error hd s, ?_⟩
    rw [runCommand_error hd s', hv, hl, ho]
    rfl

/-- Settles O44: both runs owe the same response over the same register values. -/
theorem effectDependsOnWordAndRegisters : Obligations.EffectDependsOnWordAndRegisters := by
  intro c s s' t t' hp hv hl ho h h'
  obtain ⟨r, v, l, o, hrun, hrun'⟩ := runCommand_congr c hp hv hl ho
  cases hrun.symm.trans h
  cases hrun'.symm.trans h'
  exact ⟨rfl, rfl, rfl, rfl, hp⟩

/-- Settles O45: each of the three arms owes a response made of the parameters and `OVF`. -/
theorem decoderIgnoresVelocity : Obligations.DecoderIgnoresVelocity := by
  intro i s s' t t' hi hp ho h h'
  obtain ⟨f, hf⟩ : ∃ f : Params → Bool → Response, ∀ u, exec i u = .next (respond (f u.params u.ovf) u) := by
    obtain ⟨b, rfl⟩ | ⟨b0, b1, b2, b3, b4, b5, rfl⟩ | ⟨b0, b1, b2, b3, b4, b5, rfl⟩ := hi
    · exact ⟨fun p o => idchkResponse p o b, fun _ => rfl⟩
    · exact ⟨fun p o => decodeResponse p o (raw16 b0 b1) (raw16 b2 b3) (raw16 b4 b5), fun _ => rfl⟩
    · exact ⟨fun _ o => decrawResponse o (raw16 b0 b1) (raw16 b2 b3) (raw16 b4 b5), fun _ => rfl⟩
  cases (hf s).symm.trans h
  cases (hf s').symm.trans h'
  rw [respond_pending, respond_pending, hp, ho]

/-- Settles O46: each lane of RESULT is made of its own two bytes. -/
theorem decodeLanesAreIndependent : Obligations.DecodeLanesAreIndependent := by
  intro b0 b1 b2 b3 b4 b5 c0 c1 c2 c3 c4 c5 s
  refine ⟨_, _, _, _, rfl, rfl, rfl, rfl, ?_⟩
  simp only [decodeResponse, laneX_laneResult, laneY_laneResult, laneZ_laneResult]
  exact ⟨by rintro rfl rfl; rfl, by rintro rfl rfl; rfl, by rintro rfl rfl; rfl⟩

end Sys2Proof.Machine
end

section
/-! PROOFS. Consequences of the recurrence for UPDATE (R55, R58, R59). -/

namespace Sys2Proof.Machine

/-- An UPDATE that leaves `OVF` at 0 has not saturated: both registers hold the exact sum (R54, R55). -/
theorem exec_update_exact {acc dt : Word32} {s t : State} (h : exec (.update acc dt) s = .next t)
    (ht : t.ovf = false) :
    s.ovf = false ∧ t.vel = t.lastVel ∧
      t.lastVel.toInt = s.lastVel.toInt + effAccel s.params acc.toInt * dt.toInt := by
  rw [exec_update] at h
  cases h
  obtain ⟨hs, hsat⟩ := Bool.or_eq_false_iff.1 ht
  exact ⟨hs, rfl, (toInt_bits_sat64 _).trans ((satFlag_eq_false_iff _ _).1 hsat)⟩

/-- Settles O22: both changes are exact products, of opposite time steps. -/
theorem negativeTimeStepReversesSign : Obligations.NegativeTimeStepReversesSign := by
  intro acc dt dt' s t t' hneg h h' ht ht'
  obtain ⟨-, hvel, hsum⟩ := exec_update_exact h ht
  obtain ⟨-, hvel', hsum'⟩ := exec_update_exact h' ht'
  rw [hvel, hvel', hsum, hsum', hneg]
  ring

/-- A suppressed or zero acceleration, or a zero time step, contributes nothing (R53). -/
theorem contribution_eq_zero {p : Params} {acc dt : Word32}
    (h : (-(p.dzUm : Int) < acc.toInt ∧ acc.toInt < (p.dzUm : Int)) ∨ acc = 0#32 ∨ dt = 0#32) :
    effAccel p acc.toInt * dt.toInt = 0 := by
  obtain hdz | rfl | rfl := h
  · rw [effAccel_of_dz ((dzFlag_eq_true_iff _ _).2 hdz), zero_mul]
  · rcases effAccel_cases p (0#32).toInt with h | h <;> rw [h] <;> exact zero_mul _
  · exact mul_zero _

theorem sat64_toInt (v : Word64) : sat64 v.toInt = v.toInt := by
  have hlo := BitVec.le_toInt v
  have hhi := BitVec.toInt_lt (x := v)
  exact (sat64_eq_iff _).2 ⟨hlo, by omega⟩

/-- An UPDATE that contributes nothing writes back `LAST_VEL` and does not saturate (R55). -/
theorem exec_update_of_no_contribution {acc dt : Word32} {s : State}
    (h : effAccel s.params acc.toInt * dt.toInt = 0) :
    exec (.update acc dt) s =
      .next (respond (updateResponse (dzFlag s.params acc.toInt) false s.ovf s.lastVel)
        (writeOvf s.ovf (writeVelocity s.lastVel s))) := by
  have hsum : exactSum (effAccel s.params acc.toInt) dt.toInt s.lastVel = s.lastVel.toInt := by
    rw [exactSum_def, h, add_zero]
  have hsat : satFlag s.lastVel.toInt s.lastVel.toInt = false := (satFlag_eq_false_iff _ _).2 rfl
  have hbits : bits 64 s.lastVel.toInt = s.lastVel := BitVec.ofInt_toInt
  rw [exec_update, hsum, sat64_toInt, hsat, hbits, stickyOvf, Bool.or_false]

/-- Settles O21: nothing is contributed, so the registers are written back. -/
theorem suppressedUpdateChangesNothing : Obligations.SuppressedUpdateChangesNothing := by
  intro acc dt s hagree h
  exact ⟨_, exec_update_of_no_contribution (contribution_eq_zero h), hagree.symm, rfl, rfl, rfl⟩

/-- Settles O23: RESET zeroes the registers, and an UPDATE that contributes nothing writes the zero back. -/
theorem updateAfterResetStaysZero : Obligations.UpdateAfterResetStaysZero := by
  intro acc dt s h
  refine ⟨_, _, exec_reset s, exec_update_of_no_contribution (contribution_eq_zero h), rfl, rfl, rfl, ?_⟩
  exact congrArg some velocityResult_zero

end Sys2Proof.Machine
end

section
/-! PROOFS. The decode with the default parameters (R52). -/

namespace Sys2Proof.Machine

/-- The closed form of `conv` below zero, by oddness. -/
theorem conv_default_nonpos {r : Int} (hr : r ≤ 0) :
    conv Params.default r = -((-r * 1226250 + 1024) / 2048) := by
  rw [← conv_default (neg_nonneg.2 hr), conv_neg (by decide), neg_neg]

/-- One more raw count is about 598.7 counts of the decode, so rounding keeps the order. -/
theorem conv_default_strictMono : StrictMono (conv Params.default) := by
  intro r r' h
  rcases le_total 0 r with hr | hr
  · rw [conv_default hr, conv_default (hr.trans h.le)]
    omega
  · rcases le_total 0 r' with hr' | hr'
    · rw [conv_default_nonpos hr, conv_default hr']
      omega
    · rw [conv_default_nonpos hr, conv_default_nonpos hr']
      omega

/-- `9810000 / 16384` is `613125 / 1024` in lowest terms, so only multiples of 1024 convert without rounding. -/
theorem conv_default_exact_iff (r : Int) :
    conv Params.default r * 16384 = r * 9810000 ↔ r % 1024 = 0 := by
  rcases le_total 0 r with hr | hr
  · rw [conv_default hr]
    omega
  · rw [conv_default_nonpos hr]
    omega

theorem conv_default_tie_iff (r : Int) :
    2 * |conv Params.default r * 16384 - r * 9810000| = 16384 ↔ r % 1024 = 512 := by
  rcases le_total 0 r with hr | hr
  · rw [conv_default hr]
    rcases abs_cases ((r * 1226250 + 1024) / 2048 * 16384 - r * 9810000) with
      ⟨h, hsign⟩ | ⟨h, hsign⟩ <;> rw [h] <;> omega
  · rw [conv_default_nonpos hr]
    rcases abs_cases (-((-r * 1226250 + 1024) / 2048) * 16384 - r * 9810000) with
      ⟨h, hsign⟩ | ⟨h, hsign⟩ <;> rw [h] <;> omega

theorem conv_default_deadzone_iff (r : Int) :
    (-50000 < conv Params.default r ∧ conv Params.default r < 50000) ↔ |r| ≤ 83 := by
  rw [← abs_lt, abs_conv (by decide), conv_default (abs_nonneg r)]
  omega

/-- Settles O18: oddness, and each property from the closed form of the rounded quotient. -/
theorem defaultDecodeProperties : Obligations.DefaultDecodeProperties :=
  ⟨fun r _ _ => conv_neg (by decide) r, fun _ _ _ h _ => conv_default_strictMono h,
    fun r _ _ => conv_default_exact_iff r, fun r _ _ => conv_default_tie_iff r,
    fun r _ _ => conv_default_deadzone_iff r, by decide, by decide⟩

end Sys2Proof.Machine
end

section
/-! PROOFS. The edge at which a word is accepted (R66, R84), and the model's interface to it (log 8). -/

namespace Sys2Proof.Machine

theorem holdBroken_of_held {e : PortIn} {s : State} (hv : e.cmdValid = true)
    (hh : s.held = none ∨ s.held = some e.cmdData) : holdBroken e s = false := by
  obtain hh | hh := hh <;> simp [holdBroken, hh, hv]

/-- A word presented on a free port, with the hold rule kept, is run with its edge used up and nothing stalled. -/
theorem step_accept {s : State} {e : PortIn} {rest : List PortIn} (hp : paramsLegal s.params = true)
    (hin : s.inputs = e :: rest) (hr : e.rst = false) (hv : e.cmdValid = true) (hpend : s.pending = none)
    (hh : s.held = none ∨ s.held = some e.cmdData) :
    step s = runCommand e.cmdData { s with inputs := rest, held := none } := by
  have hhold : holdBroken e { s with inputs := rest } = false := holdBroken_of_held hv hh
  exact (step_edge hp hin).trans (clockEdge_accept hr hhold hpend hv)

/-- Settles O29: the accepted word's dispatch, on a word that decodes. -/
theorem stepRunsDecodedCommand : Obligations.StepRunsDecodedCommand :=
  fun _ _ _ _ hp hin hr hv hpend hh hd => (step_accept hp hin hr hv hpend hh).trans (runCommand_ok hd _)

/-- Settles O30: the accepted word's dispatch, on a word that does not decode. -/
theorem stepAnswersRejectedWord : Obligations.StepAnswersRejectedWord := by
  intro s e rest err hp hin hr hv hpend hh hd
  rw [step_accept hp hin hr hv hpend hh, runCommand_error hd]
  cases err <;> rfl

@[simp] theorem freePort_params (s : State) : (freePort s).params = s.params := by
  unfold freePort
  split <;> rfl

@[simp] theorem freePort_pending (s : State) : (freePort s).pending = none := by
  unfold freePort
  split
  · assumption
  · rfl

@[simp] theorem freePort_held (s : State) : (freePort s).held = none := by
  unfold freePort
  split <;> rfl

theorem decodeWord_of_decodeTableWord {n w : Nat} {i : Instr} (h : decodeTableWord n w = some i) :
    decodeWord (BitVec.ofNat 72 w) = .ok i := by
  unfold decodeTableWord at h
  split at h
  · split at h
    · cases h
      assumption
    · cases h
  · cases h

/-- A word presented in front of the schedule of a free port is what the next step runs. -/
theorem step_pushInput {s : State} (c : CmdWord) (hp : paramsLegal s.params = true) (hpend : s.pending = none)
    (hheld : s.held = none) : step (pushInput (presentWord c) s) = runCommand c s := by
  have hs : { s with held := none } = s := by rw [← hheld]
  have hstep : step (pushInput (presentWord c) s) = runCommand c { s with held := none } :=
    step_accept (s := pushInput (presentWord c) s) (e := presentWord c) hp rfl rfl rfl hpend (.inl hheld)
  rw [hstep, hs]

/-- Settles O31: the pushed edge presents the word on the freed port, so the step accepts it there. -/
theorem fetchWordRunsNext : Obligations.FetchWordRunsNext := by
  intro s w i hp h
  rw [State.withFetchWord, step_pushInput _ (by rwa [freePort_params]) (freePort_pending s) (freePort_held s),
    runCommand_ok (decodeWord_of_decodeTableWord h)]

end Sys2Proof.Machine
end

section
/-! PROOFS. When a step answers (R66, R84, spec/93 I9 and I10). -/

namespace Sys2Proof.Machine

/-- An edge is refused only for a broken hold rule, and a reset edge never is (R78). -/
theorem clockEdge_answers {e : PortIn} {s : State} (h : e.rst = true ∨ holdBroken e s = false) :
    ∃ t, clockEdge e s = .next t := by
  cases hr : e.rst with
  | true => exact ⟨_, clockEdge_reset hr s⟩
  | false =>
    have hh : holdBroken e s = false := by simpa [hr] using h
    cases hp : s.pending with
    | some p => exact ⟨_, clockEdge_pending hr hh hp⟩
    | none =>
      cases hv : e.cmdValid with
      | true =>
        obtain ⟨r, v, l, o, hrun, -⟩ := runCommand_shape e.cmdData (clearStall s)
        exact ⟨_, (clockEdge_accept hr hh hp hv).trans hrun⟩
      | false => exact ⟨_, clockEdge_idle hr hh hp hv⟩

theorem clockEdge_refused {e : PortIn} {s : State} (hr : e.rst = false) (hh : holdBroken e s = true) :
    clockEdge e s = .refused .commandNotHeld := by
  simp [clockEdge, hr, hh]

theorem step_no_edge {s : State} (hp : paramsLegal s.params = true) (hin : s.inputs = []) : step s = .next s := by
  simp [step, nextEdge, hp, hin]

theorem step_illegal {s : State} (hp : ¬paramsLegal s.params = true) : step s = .refused .illegalParameters :=
  if_neg hp

theorem step_answers {s : State} (h : stepAllowed s) : ∃ t, step s = .next t := by
  obtain ⟨hp, hedge⟩ := h
  cases hin : s.inputs with
  | nil => exact ⟨s, step_no_edge hp hin⟩
  | cons e rest =>
    rw [step_edge hp hin]
    exact clockEdge_answers (hedge e rest hin)

/-- Settles O32: a step that is not allowed has illegal parameters or breaks the hold rule at an edge without reset. -/
theorem stepAnswersUnlessHostOrInstanceIllegal : Obligations.StepAnswersUnlessHostOrInstanceIllegal := by
  refine fun s => ⟨step_answers, fun h => ?_⟩
  by_cases hp : paramsLegal s.params = true
  · obtain ⟨e, rest, hin, hr, hh⟩ : ∃ e rest, s.inputs = e :: rest ∧ e.rst = false ∧ holdBroken e s = true := by
      simpa [stepAllowed, hp] using h
    exact .inr ((step_edge hp hin).trans (clockEdge_refused hr hh))
  · exact .inl (step_illegal hp)

end Sys2Proof.Machine
end

section
/-! PROOFS. A step by what it does to the machine: a hardware reset, an accepted word, or a move of the port alone. -/

namespace Sys2Proof.Machine

/-- What a step that neither resets nor accepts leaves to the port: the outstanding response stays, is taken, or ages
(R84). -/
inductive ResponseMove (s t : State) : Prop where
  | stays (pending : t.pending = s.pending) (delivered : t.delivered = s.delivered)
  | taken (p : Pending) (was : s.pending = some p) (pending : t.pending = none)
      (delivered : t.delivered = s.delivered ++ [p.rsp])
  | ages (p : Pending) (was : s.pending = some p) (pending : t.pending = some { p with age := p.age + 1 })
      (delivered : t.delivered = s.delivered)

/-- The machine's own fields are as before; only the port has moved. -/
structure PortStep (s t : State) : Prop where
  vel      : t.vel = s.vel
  lastVel  : t.lastVel = s.lastVel
  ovf      : t.ovf = s.ovf
  params   : t.params = s.params
  place    : t.place = s.place
  accepted : t.accepted = s.accepted
  response : ResponseMove s t

/-- An accepted word is run on a free port, with its edge used up and nothing stalled (R84). -/
structure AcceptStep (c : CmdWord) (s t : State) : Prop where
  free : s.pending = none
  runs : ∃ rest, runCommand c { s with inputs := rest, held := none } = .next t

/-- A hardware reset edge (R78, R79). -/
def ResetStep (s t : State) : Prop := ∃ e rest, t = recordStall e (hardwareReset { s with inputs := rest })

theorem resetEdge_of_inputs {s : State} {e : PortIn} {rest : List PortIn} (hin : s.inputs = e :: rest) :
    resetEdge s = e.rst := by
  simp only [resetEdge, hin]

theorem acceptedWord_of_inputs {s : State} {e : PortIn} {rest : List PortIn} (hin : s.inputs = e :: rest) :
    acceptedWord s = if cmdReady e.rst s && e.cmdValid then some e.cmdData else none := by
  simp only [acceptedWord, hin]

/-- The port's move at an edge of an outstanding command. -/
theorem portStep_responseEdge {e : PortIn} {s : State} {p : Pending} {rest : List PortIn} (hp : s.pending = some p) :
    PortStep s (recordStall e (responseEdge e p { s with inputs := rest })) := by
  obtain ⟨-, -, h⟩ | ⟨-, h⟩ := responseEdge_cases e p { s with inputs := rest } <;> rw [h]
  · exact ⟨rfl, rfl, rfl, rfl, rfl, rfl, .taken p hp rfl rfl⟩
  · exact ⟨rfl, rfl, rfl, rfl, rfl, rfl, .ages p hp rfl rfl⟩

/-- The three kinds of step, told apart by the claims' own `resetEdge` and `acceptedWord`. -/
theorem step_kinds {s t : State} (h : step s = .next t) :
    (resetEdge s = true ∧ ResetStep s t) ∨
    (resetEdge s = false ∧ ∃ c, acceptedWord s = some c ∧ AcceptStep c s t) ∨
    (resetEdge s = false ∧ acceptedWord s = none ∧ PortStep s t) := by
  obtain ⟨-, ⟨hin, rfl⟩ | ⟨e, rest, hin, hedge⟩⟩ := step_cases h
  · have hnone : acceptedWord t = none := by simp only [acceptedWord, hin]
    have hedge : resetEdge t = false := by simp only [resetEdge, hin]
    exact .inr (.inr ⟨hedge, hnone, rfl, rfl, rfl, rfl, rfl, rfl, .stays rfl rfl⟩)
  · rw [resetEdge_of_inputs hin, acceptedWord_of_inputs hin]
    obtain ⟨hr, ht⟩ | ⟨hr, -, ⟨p, hp, rfl⟩ | ⟨hp, hv, hrun⟩ | ⟨hp, hv, rfl⟩⟩ := hedge
    · exact .inl ⟨hr, e, rest, ht⟩
    · exact .inr (.inr ⟨hr, by simp [cmdReady, hp], portStep_responseEdge hp⟩)
    · exact .inr (.inl ⟨hr, e.cmdData, by simp [cmdReady, hr, hp, hv], hp, rest, hrun⟩)
    · exact .inr (.inr ⟨hr, by simp [hv], rfl, rfl, rfl, rfl, rfl, rfl, .stays rfl rfl⟩)

/-- What an accepted word leaves: its response owed over new register values, the rest of the machine as before. -/
theorem AcceptStep.shape {c : CmdWord} {s t : State} (h : AcceptStep c s t) :
    ∃ r v l o rest, t = respond r { s with inputs := rest, held := none, vel := v, lastVel := l, ovf := o } ∧
      r.status.ovf = o ∧ r.Consistent ∧ (s.vel = s.lastVel → v = l) := by
  obtain ⟨rest, hrun⟩ := h.runs
  obtain ⟨r, v, l, o, hshape, ho, hr, hv⟩ := runCommand_shape c { s with inputs := rest, held := none }
  cases hshape.symm.trans hrun
  exact ⟨r, v, l, o, rest, rfl, ho, hr, hv⟩

end Sys2Proof.Machine
end

section
/-! PROOFS. What a step keeps: the parameters (R6), `VEL = LAST_VEL` (R15), and the registers unless it resets or
accepts an UPDATE or a RESET (R12, R13, R16). -/

namespace Sys2Proof.Machine

/-- Settles O35: none of the three kinds of step writes the parameters or the place. -/
theorem stepNeverChangesParams : Obligations.StepNeverChangesParams := by
  intro s t h
  obtain ⟨-, e, rest, rfl⟩ | ⟨-, c, -, hacc⟩ | ⟨-, -, hport⟩ := step_kinds h
  · exact ⟨rfl, rfl⟩
  · obtain ⟨r, v, l, o, rest, rfl, -⟩ := hacc.shape
    exact ⟨rfl, rfl⟩
  · exact ⟨hport.params, hport.place⟩

/-- Settles O41: a reset writes both registers 0, a command writes both or neither, and the port writes none. -/
theorem stepKeepsVelocitiesEqual : Obligations.StepKeepsVelocitiesEqual := by
  refine ⟨fun s t hagree h => ?_, fun i s t hagree h => ?_⟩
  · obtain ⟨-, e, rest, rfl⟩ | ⟨-, c, -, hacc⟩ | ⟨-, -, hport⟩ := step_kinds h
    · exact rfl
    · obtain ⟨r, v, l, o, rest, rfl, -, -, hv⟩ := hacc.shape
      exact hv hagree
    · exact hport.vel.trans (Eq.trans hagree hport.lastVel.symm)
  · obtain ⟨r, v, l, o, hexec, -, -, -, hv⟩ := exec_shape i s
    cases hexec.symm.trans h
    exact hv hagree

/-- A word that is neither an UPDATE nor a RESET leaves the three registers as they are (R49 to R51, R57, R61, R67). -/
theorem runCommand_keeps_registers {c : CmdWord} {s t : State} (h : runCommand c s = .next t)
    (hupdate : ∀ acc dt, decodeWord c ≠ .ok (.update acc dt)) (hreset : decodeWord c ≠ .ok .reset) :
    t.vel = s.vel ∧ t.lastVel = s.lastVel ∧ t.ovf = s.ovf := by
  cases hd : decodeWord c with
  | error e =>
    cases (runCommand_error hd s).symm.trans h
    exact ⟨rfl, rfl, rfl⟩
  | ok i =>
    have hi : i ≠ .reset := by rintro rfl; exact hreset hd
    have hi' : ∀ acc dt, i ≠ .update acc dt := by rintro acc dt rfl; exact hupdate acc dt hd
    obtain ⟨r, hexec, -⟩ := exec_readOnly hi hi' s
    cases hexec.symm.trans ((runCommand_ok hd s).symm.trans h)
    exact ⟨rfl, rfl, rfl⟩

/-- Settles O34: a port step and every other accepted word leave the registers as they are. -/
theorem onlyUpdateAndResetsWriteRegisters : Obligations.OnlyUpdateAndResetsWriteRegisters := by
  intro s t h hchange
  obtain ⟨hedge, -⟩ | ⟨-, c, hc, hacc⟩ | ⟨-, -, hport⟩ := step_kinds h
  · exact .inl hedge
  · refine .inr ⟨c, hc, ?_⟩
    by_contra! hother
    obtain ⟨rest, hrun⟩ := hacc.runs
    obtain ⟨hvel, hlast, hovf⟩ := runCommand_keeps_registers hrun hother.1 hother.2
    simp [hvel, hlast, hovf] at hchange
  · simp [hport.vel, hport.lastVel, hport.ovf] at hchange

end Sys2Proof.Machine
end

section
/-! PROOFS. The invariant of the responses (R16, R40, R66, R67, R84). -/

namespace Sys2Proof.Machine

theorem pendingInv_of_free {s : State} (h : s.pending = none) : PendingInv s := by
  intro p hp
  cases h.symm.trans hp

/-- Settles O40: nothing is outstanding and nothing delivered at reset. -/
theorem responseInvAtReset : Obligations.ResponseInvAtReset :=
  ⟨⟨pendingInv_of_free rfl, fun _ hr => absurd hr List.not_mem_nil⟩, rfl⟩

/-- A response that stays, is taken or ages keeps the invariant, where `OVF` is kept. -/
theorem ResponseInv.of_portStep {s t : State} (hinv : ResponseInv s) (h : PortStep s t) : ResponseInv t := by
  obtain ⟨hpending, hdelivered⟩ := hinv
  cases h.response with
  | stays hp hd =>
    refine ⟨fun p hpt => ?_, fun r hr => hdelivered r (hd ▸ hr)⟩
    rw [h.ovf]
    exact hpending p (hp ▸ hpt)
  | taken p hs hp hd =>
    refine ⟨pendingInv_of_free hp, fun r hr => ?_⟩
    rw [hd, List.mem_append, List.mem_singleton] at hr
    obtain hr | rfl := hr
    · exact hdelivered r hr
    · exact (hpending p hs).1
  | ages p hs hp hd =>
    obtain ⟨hcons, hovf, hage⟩ := hpending p hs
    refine ⟨fun q hq => ?_, fun r hr => hdelivered r (hd ▸ hr)⟩
    cases hp.symm.trans hq
    exact ⟨hcons, hovf.trans h.ovf.symm, Nat.le_succ_of_le hage⟩

/-- Settles O42: a reset owes nothing, an accepted word owes a consistent response that reports `OVF`, and the port
keeps the responses it has. -/
theorem stepKeepsResponsesConsistent : Obligations.StepKeepsResponsesConsistent := by
  intro s t hinv h
  obtain ⟨-, e, rest, rfl⟩ | ⟨-, c, -, hacc⟩ | ⟨-, -, hport⟩ := step_kinds h
  · exact ⟨pendingInv_of_free rfl, hinv.delivered⟩
  · obtain ⟨r, v, l, o, rest, rfl, hovf, hcons, -⟩ := hacc.shape
    refine ⟨fun p hp => ?_, hinv.delivered⟩
    cases hp
    exact ⟨hcons, hovf, le_rfl⟩
  · exact hinv.of_portStep hport

end Sys2Proof.Machine
end

section
/-! PROOFS. The block against the source's unbounded integrator (R14, R53 to R56, D5, D7). -/

namespace Sys2Proof.Machine

theorem Tracks.congr {v : Int} {s t : State} (hs : Tracks v s) (hvel : t.vel = s.vel) (hlast : t.lastVel = s.lastVel)
    (hovf : t.ovf = s.ovf) : Tracks v t := by
  rwa [Tracks, VelocitiesAgree, hvel, hlast, hovf]

theorem tracks_zero_of_zeroed {t : State} (hvel : t.vel = 0#64) (hlast : t.lastVel = 0#64) : Tracks 0 t :=
  ⟨hvel.trans hlast.symm, fun _ => by rw [hlast]; rfl⟩

/-- The source's gate and sum are the block's over unbounded numbers (R53, R54). -/
theorem sourceUpdate_eq (p : Params) (v a dt : Int) : sourceUpdate p.dzUm v a dt = v + effAccel p a * dt := by
  rw [sourceUpdate, effAccel_eq_ite]
  split <;> simp

/-- An UPDATE that records no saturation has added the source's own contribution (R54, D7). -/
theorem tracks_update {acc dt : Word32} {v : Int} {s t : State} (hs : Tracks v s)
    (h : exec (.update acc dt) s = .next t) : Tracks (sourceUpdate s.params.dzUm v acc.toInt dt.toInt) t := by
  refine ⟨stepKeepsVelocitiesEqual.2 _ s t hs.1 h, fun hovf => ?_⟩
  obtain ⟨hovf', -, hsum⟩ := exec_update_exact h hovf
  rw [hsum, hs.2 hovf', sourceUpdate_eq]

theorem tracks_runCommand {c : CmdWord} {v : Int} {s t : State} (hs : Tracks v s) (h : runCommand c s = .next t) :
    Tracks (sourceVelocity s.params.dzUm c v) t := by
  by_cases hwrites : (∃ acc dt, decodeWord c = .ok (.update acc dt)) ∨ decodeWord c = .ok .reset
  · obtain ⟨acc, dt, hd⟩ | hd := hwrites
    · simpa only [sourceVelocity, hd] using tracks_update hs ((runCommand_ok hd s).symm.trans h)
    · cases (exec_reset s).symm.trans ((runCommand_ok hd s).symm.trans h)
      simpa only [sourceVelocity, hd] using tracks_zero_of_zeroed rfl rfl
  · push Not at hwrites
    obtain ⟨hvel, hlast, hovf⟩ := runCommand_keeps_registers h hwrites.1 hwrites.2
    have hv : sourceVelocity s.params.dzUm c v = v := by
      unfold sourceVelocity
      split <;> simp_all
    rw [hv]
    exact hs.congr hvel hlast hovf

/-- Settles O43: a step lemma of the simulation for each kind of step. -/
theorem blockRefinesSourceIntegrator : Obligations.BlockRefinesSourceIntegrator := by
  intro s t v hs h
  obtain ⟨hedge, e, rest, rfl⟩ | ⟨hedge, c, hc, hacc⟩ | ⟨hedge, hc, hport⟩ := step_kinds h
  · simpa only [sourceNext, hedge, if_true] using tracks_zero_of_zeroed rfl rfl
  · obtain ⟨rest, hrun⟩ := hacc.runs
    simpa [sourceNext, hedge, hc] using tracks_runCommand (s := { s with inputs := rest, held := none }) hs hrun
  · simpa [sourceNext, hedge, hc] using hs.congr hport.vel hport.lastVel hport.ovf

end Sys2Proof.Machine
end

section
/-! PROOFS. Hardware reset (R12, R77 to R79). -/

namespace Sys2Proof.Machine

/-- Settles O36: the reset state's own fields. -/
theorem resetStateIsZeroed : Obligations.ResetStateIsZeroed := ⟨rfl, rfl, rfl, rfl, rfl⟩

theorem step_reset {s : State} {e : PortIn} {rest : List PortIn} (hp : paramsLegal s.params = true)
    (hin : s.inputs = e :: rest) (hr : e.rst = true) :
    step s = .next (recordStall e (hardwareReset { s with inputs := rest })) :=
  (step_edge hp hin).trans (clockEdge_reset hr _)

theorem rspValid_reset (s : State) : rspValid true s = false := by
  unfold rspValid
  split <;> rfl

/-- Settles O37: `rst` gates both ready and valid, and the edge is a hardware reset whatever is on the port. -/
theorem hardwareResetEdge : Obligations.HardwareResetEdge := by
  intro s e rest hp hin hr
  refine ⟨by rw [hr]; rfl, by rw [hr, rspValid_reset], _, step_reset hp hin hr, ?_⟩
  exact ⟨rfl, rfl, rfl, rfl, rfl, rfl, rfl, rfl⟩

theorem exists_of_resetEdge {s : State} (h : resetEdge s = true) :
    ∃ e rest, s.inputs = e :: rest ∧ e.rst = true := by
  unfold resetEdge at h
  split at h
  · cases h
  · exact ⟨_, _, ‹_›, h⟩

/-- Settles O38: the reset edge overwrites everything the command wrote, but for the model's count. -/
theorem abortedCommandUnobservable : Obligations.AbortedCommandUnobservable := by
  intro i s done hedge hp h
  obtain ⟨r, v, l, o, hexec, -⟩ := exec_shape i s
  cases hexec.symm.trans h
  obtain ⟨e, rest, hin, hr⟩ := exists_of_resetEdge hedge
  exact ⟨_, _, step_reset hp hin hr, step_reset (s := respond r { s with vel := v, lastVel := l, ovf := o }) hp hin hr,
    rfl⟩

end Sys2Proof.Machine
end

section
/-! PROOFS. A host that holds what it presents is never refused (R84, spec/93 I9). -/

namespace Sys2Proof.Machine

/-- Under a holding host the next edge keeps the hold rule or is a reset. -/
theorem stepAllowed_of_hostHolds {s : State} (hp : paramsLegal s.params = true) (h : HostHolds s.held s.inputs) :
    stepAllowed s := by
  refine ⟨hp, fun e rest hin => ?_⟩
  rw [hin] at h
  obtain ⟨hr | hheld | ⟨hv, hheld⟩, -⟩ := h
  · exact .inl hr
  · exact .inr (by simp [holdBroken, hheld])
  · exact .inr (holdBroken_of_held hv (.inr hheld))

/-- A host that holds from a stalled command on also holds with nothing stalled. -/
theorem HostHolds.of_none {held : Option CmdWord} {l : List PortIn} (h : HostHolds held l) : HostHolds none l := by
  cases l with
  | nil => trivial
  | cons e rest => exact ⟨.inr (.inl rfl), h.2⟩

/-- An edge leaves the rest of the schedule, and stalls what it presented or nothing. -/
theorem step_port {s t : State} {e : PortIn} {rest : List PortIn} (hin : s.inputs = e :: rest)
    (h : step s = .next t) :
    t.inputs = rest ∧ (t.held = (if e.cmdValid then some e.cmdData else none) ∨ t.held = none) := by
  obtain ⟨-, ⟨hnil, -⟩ | ⟨e', rest', hcons, hedge⟩⟩ := step_cases h
  · cases hnil.symm.trans hin
  · cases hcons.symm.trans hin
    obtain ⟨-, rfl⟩ | ⟨-, -, ⟨p, -, rfl⟩ | ⟨-, -, hrun⟩ | ⟨-, -, rfl⟩⟩ := hedge
    · exact ⟨rfl, .inl rfl⟩
    · obtain ⟨-, -, -, -, -, -, hinputs⟩ := responseEdge_registers e p { s with inputs := rest }
      exact ⟨hinputs, .inl rfl⟩
    · obtain ⟨r, v, l, o, hshape, -⟩ := runCommand_shape e.cmdData (clearStall { s with inputs := rest })
      cases hshape.symm.trans hrun
      exact ⟨rfl, .inr rfl⟩
    · exact ⟨rfl, .inr rfl⟩

theorem step_keeps_hostHolds {s t : State} (hh : HostHolds s.held s.inputs) (h : step s = .next t) :
    HostHolds t.held t.inputs := by
  cases hin : s.inputs with
  | nil =>
    obtain ⟨-, ⟨-, rfl⟩ | ⟨e, rest, hcons, -⟩⟩ := step_cases h
    · exact hh
    · cases hin.symm.trans hcons
  | cons e rest =>
    obtain ⟨hinputs, hheld⟩ := step_port hin h
    rw [hin] at hh
    rw [hinputs]
    obtain hheld | hheld := hheld <;> rw [hheld]
    · exact hh.2
    · exact hh.2.of_none

/-- A run of one step more begins with that step. -/
theorem core_run_succ {M : Host.Core} {s t : M.State} (h : M.step s = .next t) (n : Nat) :
    M.run (n + 1) s = M.run n t := by
  rw [Host.Core.run, h]

/-- Settles O33: by induction on the number of steps, with legality and the hold of the remaining schedule as the
invariant. -/
theorem holdingHostIsNeverRefused : Obligations.HoldingHostIsNeverRefused := by
  intro n
  induction n with
  | zero => exact fun s _ _ => ⟨s, rfl⟩
  | succ n ih =>
    intro s hp hh
    obtain ⟨t, ht⟩ := step_answers (stepAllowed_of_hostHolds hp hh)
    have hp' : paramsLegal t.params = true := (stepNeverChangesParams s t ht).1 ▸ hp
    obtain ⟨u, hu⟩ := ih t hp' (step_keeps_hostHolds hh ht)
    exact ⟨u, (core_run_succ (M := Sys2Proof.core) ht n).trans hu⟩

end Sys2Proof.Machine
end

section
/-! PROOFS. The port's promises (R31, R84, R86). -/

namespace Sys2Proof.Machine

/-- Settles O47: a word is accepted on a free port only, and the port alone writes no register. -/
theorem atMostOneCommandOutstanding : Obligations.AtMostOneCommandOutstanding := by
  intro s t p hp hedge h
  have hready : cmdReady false s = false := by simp [cmdReady, hp]
  obtain ⟨hedge', -⟩ | ⟨-, c, -, hacc⟩ | ⟨-, hc, hport⟩ := step_kinds h
  · cases hedge.symm.trans hedge'
  · cases hp.symm.trans hacc.free
  · exact ⟨hready, hc, hport.accepted, hport.vel, hport.lastVel, hport.ovf⟩

/-- A response that stays, is taken or ages keeps its place in the order. -/
theorem ResponseMove.keeps_order {s t : State} (h : ResponseMove s t) : responsesInOrder t = responsesInOrder s := by
  unfold responsesInOrder
  cases h with
  | stays hp hd => rw [hp, hd]
  | taken p hs hp hd => simp [hs, hp, hd]
  | ages p hs hp hd => simp [hs, hp, hd]

/-- Settles O48: an accepted word's response is appended on a free port; any other step keeps the order. -/
theorem responsesComeBackInOrder : Obligations.ResponsesComeBackInOrder := by
  intro s t hedge h
  obtain ⟨hedge', -⟩ | ⟨-, c, hc, hacc⟩ | ⟨-, hc, hport⟩ := step_kinds h
  · cases hedge.symm.trans hedge'
  · have hfree := hacc.free
    obtain ⟨r, v, l, o, rest, rfl, -⟩ := hacc.shape
    exact ⟨fun hnone => (by cases hc.symm.trans hnone), fun _ _ => ⟨r, by simp [responsesInOrder, hfree], rfl, rfl⟩⟩
  · exact ⟨fun _ => ⟨hport.response.keeps_order, hport.accepted⟩, fun _ hsome => by cases hc.symm.trans hsome⟩

theorem rspValid_iff {s : State} {p : Pending} (hp : s.pending = some p) :
    rspValid false s = true ↔ responseDelay s.place s.accepted ≤ p.age := by
  simp [rspValid, hp, responseReady]

theorem rspData_of_valid {s : State} {p : Pending} (hp : s.pending = some p) (hv : rspValid false s = true) :
    rspData false s = some p.rsp.toWord := by
  simp [rspData, hp, hv]

/-- A step with a command outstanding and no reset is an edge of that command. -/
theorem step_pending {s t : State} {e : PortIn} {rest : List PortIn} {p : Pending} (hin : s.inputs = e :: rest)
    (hr : e.rst = false) (hp : s.pending = some p) (h : step s = .next t) :
    t = recordStall e (responseEdge e p { s with inputs := rest }) := by
  obtain ⟨-, ⟨hnil, -⟩ | ⟨e', rest', hcons, hedge⟩⟩ := step_cases h
  · cases hnil.symm.trans hin
  · cases hcons.symm.trans hin
    obtain ⟨hr', -⟩ | ⟨-, -, ⟨q, hq, ht⟩ | ⟨hfree, -⟩ | ⟨hfree, -⟩⟩ := hedge
    · cases hr.symm.trans hr'
    · cases hq.symm.trans hp
      exact ht
    · cases hp.symm.trans hfree
    · cases hp.symm.trans hfree

/-- Settles O49: a valid response is taken at a ready edge, and only ages at any other. -/
theorem validResponseStableUntilTaken : Obligations.ValidResponseStableUntilTaken := by
  intro s t e rest hin hr hvalid h
  cases hp : s.pending with
  | none => simp [rspValid, hp] at hvalid
  | some p =>
    have hdelay := (rspValid_iff hp).1 hvalid
    cases step_pending hin hr hp h
    obtain ⟨-, hready, hedge⟩ | ⟨hnot, hedge⟩ := responseEdge_cases e p { s with inputs := rest } <;> rw [hedge]
    · exact ⟨fun hnot => (by cases hready.symm.trans hnot), fun _ => ⟨rfl, p, rfl, rfl⟩⟩
    · refine ⟨fun _ => ?_, fun hready => absurd ⟨by simpa [responseReady] using hdelay, hready⟩ hnot⟩
      have hvalid' : rspValid false (recordStall e (awaitResponse p { s with inputs := rest })) = true :=
        (rspValid_iff (p := { p with age := p.age + 1 }) rfl).2 (Nat.le_succ_of_le hdelay)
      have hdata := rspData_of_valid (p := { p with age := p.age + 1 }) rfl hvalid'
      exact ⟨hvalid', hdata.trans (rspData_of_valid hp hvalid).symm, rfl⟩

/-- A quiet edge leaves everything but the schedule and the response's age (R84). -/
theorem step_quiet {s : State} {e : PortIn} {rest : List PortIn} {p : Pending} (hl : paramsLegal s.params = true)
    (hheld : s.held = none) (hp : s.pending = some p) (hq : QuietEdge e) (hin : s.inputs = e :: rest) :
    step s = .next { s with inputs := rest, pending := some { p with age := p.age + 1 } } := by
  obtain ⟨hr, hv, hready⟩ := hq
  have hhold : holdBroken e { s with inputs := rest } = false := by simp [holdBroken, hheld]
  rw [step_edge hl hin, clockEdge_pending hr hhold hp]
  simp [responseEdge, hready, recordStall, hv, awaitResponse, hheld]

/-- Quiet edges only age the outstanding response, one cycle each. -/
theorem run_quiet {edges rest : List PortIn} {s : State} {p : Pending} (hl : paramsLegal s.params = true)
    (hheld : s.held = none) (hp : s.pending = some p) (hq : ∀ e ∈ edges, QuietEdge e)
    (hin : s.inputs = edges ++ rest) :
    Sys2Proof.core.run edges.length s =
      .next { s with inputs := rest, pending := some { p with age := p.age + edges.length } } := by
  induction edges generalizing s p with
  | nil =>
    obtain ⟨params, place, vel, lastVel, ovf, pending, held, inputs, delivered, accepted⟩ := s
    subst hp hin
    rfl
  | cons e edges ih =>
    obtain ⟨hqe, hqs⟩ := List.forall_mem_cons.1 hq
    have hfirst := step_quiet hl hheld hp hqe hin
    have hlater := ih (s := { s with inputs := edges ++ rest, pending := some { p with age := p.age + 1 } })
      (p := { p with age := p.age + 1 }) hl hheld rfl hqs rfl
    have hage : p.age + 1 + edges.length = p.age + (e :: edges).length := by rw [List.length_cons]; omega
    exact (core_run_succ (M := Sys2Proof.core) hfirst edges.length).trans (hlater.trans (by rw [← hage]))

/-- Settles O50: the run of quiet edges, and the delay's two summands. -/
theorem responseArrivesAfterItsDelay : Obligations.ResponseArrivesAfterItsDelay := by
  intro edges rest s p hl hheld hp hq hin
  exact ⟨Nat.le_add_left _ _, Nat.le_add_right _ _, _, run_quiet hl hheld hp hq hin, rfl,
    rspValid_iff (p := { p with age := p.age + edges.length }) rfl⟩

end Sys2Proof.Machine
end

section
/-! PROOFS. A system's instances (R74). -/

namespace Sys2Proof.Machine

/-- A step of instance `k` writes place `k` alone, with a state that hangs on that place alone: any system with the same
instance there steps to the same state there. -/
theorem stepAt_next {k : Nat} {sys sys' : System} (h : System.stepAt k sys = .next sys') :
    ∃ t, sys' = sys.set k t ∧
      ∀ other : System, other[k]? = sys[k]? → System.stepAt k other = .next (other.set k t) := by
  unfold System.stepAt at h
  cases hk : sys[k]? with
  | none =>
    rw [hk] at h
    cases h
    have hset (l : System) (hl : l[k]? = none) : l.set k State.reset = l :=
      List.set_eq_of_length_le (List.getElem?_eq_none_iff.1 hl)
    refine ⟨State.reset, (hset sys hk).symm, fun other hother => ?_⟩
    simp only [System.stepAt, hother, hset other hother]
  | some s =>
    cases hs : step s with
    | next t =>
      simp only [hk, hs] at h
      cases h
      exact ⟨t, rfl, fun other hother => by simp only [System.stepAt, hother, hs]⟩
    | fault r => simp [hk, hs] at h
    | refused r => simp [hk, hs] at h

/-- Settles O51: two steps write two places, each from its own. -/
theorem instancesAreIndependent : Obligations.InstancesAreIndependent := by
  refine ⟨fun k j sys sys' h hne => ?_, fun k j sys a b a' b' hne hk hjk hj hkj => ?_⟩
  · obtain ⟨t, rfl, -⟩ := stepAt_next h
    exact List.getElem?_set_ne hne.symm
  · obtain ⟨t, rfl, ht⟩ := stepAt_next hk
    obtain ⟨u, rfl, hu⟩ := stepAt_next hj
    cases (hu _ (List.getElem?_set_ne hne.symm)).symm.trans hjk
    cases (ht _ (List.getElem?_set_ne hne)).symm.trans hkj
    exact List.set_comm _ _ hne.symm

end Sys2Proof.Machine
end

section
/-! PROOFS. The host's duties (R62, R81, R82). -/

namespace Sys2Proof.Driver

open Sys2Proof.Machine

/-- The identity read gave `IDENT`: the wake write follows, and its success is the outcome (R81). -/
theorem initSensor_match (p : Params) (ovf ack : Bool) :
    initSensor p ovf (some p.ident) ack =
      { outcome := if ack then .deviceDetected else .transportFailure
        command := some (encode (.idchk p.ident))
        bus := [identityRead, wakeWrite] } := by
  have hdet : (idchkResponse p ovf p.ident).status.det = true := beq_self_eq_true p.ident
  rw [initSensor, if_pos hdet]

/-- The identity read gave another byte: there is no wake write (R81). -/
theorem initSensor_mismatch {p : Params} {b : Byte} (hb : b ≠ p.ident) (ovf ack : Bool) :
    initSensor p ovf (some b) ack =
      { outcome := .notDetected, command := some (encode (.idchk b)), bus := [identityRead] } := by
  have hdet : ¬(idchkResponse p ovf b).status.det = true := mt eq_of_beq hb
  rw [initSensor, if_neg hdet]

/-- Settles O52: the identity read fails, matches or does not match. -/
theorem wakeWriteIffIdentityMatches : Obligations.WakeWriteIffIdentityMatches := by
  intro p ovf idRead ack
  cases idRead with
  | none => exact ⟨rfl, rfl, rfl⟩
  | some b =>
    by_cases hb : b = p.ident
    · subst hb
      rw [initSensor_match, if_pos rfl]
      exact ⟨rfl, (if_pos rfl).symm, rfl⟩
    · rw [initSensor_mismatch hb, if_neg (mt Option.some.inj hb)]
      exact ⟨rfl, (if_neg hb).symm, rfl⟩

/-- The block's answer to a sample's word is the outcome sampling gives (R82). -/
theorem exec_sampleCommand (f : SampleForm) (b : SampleBlock) (s : State) :
    exec (sampleCommand f b) s = .next (respond (sampleResponse s.params s.ovf f b) s) := by
  cases f <;> rfl

/-- Settles O57: a failed read sends nothing; a successful one sends the word the block decodes to the sample's
command. -/
theorem readSampleSendsExactlyOnSuccess : Obligations.ReadSampleSendsExactlyOnSuccess := by
  intro f block s
  refine ⟨by cases block <;> rfl, by rintro rfl; exact ⟨rfl, rfl⟩, ?_⟩
  rintro x0 x1 y0 y1 z0 z1 rfl
  have hrun := (runCommand_ok (decodeWord_encode (sampleCommand f ⟨x0, x1, y0, y1, z0, z1⟩)) s).trans
    (exec_sampleCommand f _ s)
  exact ⟨_, _, _, by cases f <;> rfl, rfl, hrun, rfl, rfl⟩

/-- Settles O53: each lane of the sample's DECODE holds its converted axis without loss, by R7. -/
theorem decodedLaneFeedsUpdate : Obligations.DecodedLaneFeedsUpdate := by
  intro b dt s hp
  refine ⟨_, _, exec_sampleCommand .decode b s, rfl, rfl, ⟨_, rfl, ?_⟩, ⟨_, rfl, ?_⟩, ⟨_, rfl, ?_⟩⟩ <;>
    simp [Axis.lane, sampleResponse, decodeResponse, toInt_bits_conv_raw16 hp]

end Sys2Proof.Driver
end

section
/-! PROOFS. The assembler's operands (R45, R46). -/

namespace Sys2Proof.Asm

open Sys2Proof.Machine

/-- A signed value is assembled exactly when it fits, as the field that reads back as it (R45). -/
theorem signedValue_eq_some_iff {w : Nat} (hw : 0 < w) (v : Int) (b : BitVec w) :
    signedValue w v = some b ↔ b.toInt = v := by
  have hlo := BitVec.le_toInt b
  have hhi := BitVec.toInt_lt (x := b)
  unfold signedValue
  constructor
  · intro h
    split at h
    next hfits =>
      cases h
      exact toInt_bits hw hfits.1 hfits.2
    next => cases h
  · rintro rfl
    rw [if_pos ⟨hlo, hhi⟩, bits, BitVec.ofInt_toInt]

/-- Settles O54: each operand's field is the one that reads back as its value. -/
theorem assembledUpdateNeverWraps : Obligations.AssembledUpdateNeverWraps := by
  intro na nt a t c
  simp only [assemble, signedField, Option.bind_eq_bind, Option.bind_eq_some_iff, Option.some.injEq,
    signedValue_eq_some_iff (w := 32) (by decide), signed]
  constructor
  · rintro ⟨acc, hacc, dt, hdt, rfl⟩
    exact ⟨acc, dt, rfl, hacc, hdt⟩
  · rintro ⟨acc, dt, rfl, hacc, hdt⟩
    exact ⟨acc, hacc, dt, hdt, rfl⟩

theorem unsignedField_hex_toNat {w : Nat} (b : BitVec w) : unsignedField w (.hex b.toNat) = some b := by
  simp [unsignedField, b.isLt]

theorem packBytes_hex (b0 b1 b2 b3 b4 b5 : Byte) :
    packBytes (.hex b0.toNat) (.hex b1.toNat) (.hex b2.toNat) (.hex b3.toNat) (.hex b4.toNat) (.hex b5.toNat) =
      some (b0 ++ b1 ++ b2 ++ b3 ++ b4 ++ b5) := by
  simp [packBytes, unsignedField_hex_toNat]

/-- The 48-bit number of six bytes is the format S payload of those bytes (R27, R36). -/
theorem sampleWord_bytes (o : Opcode) (b0 b1 b2 b3 b4 b5 : Byte) :
    sampleWord o (b0 ++ b1 ++ b2 ++ b3 ++ b4 ++ b5) = commandWord o (samplePayload b0 b1 b2 b3 b4 b5) := by
  refine congrArg (commandWord o) (BitVec.eq_of_toNat_eq ?_)
  show (0#16 ++ (b0 ++ b1 ++ b2 ++ b3 ++ b4 ++ b5)).toNat = (0#16 ++ b0 ++ b1 ++ b2 ++ b3 ++ b4 ++ b5).toNat
  simp only [BitVec.toNat_append, BitVec.toNat_ofNat, Nat.zero_mod, Nat.zero_shiftLeft, Nat.zero_or]

/-- Settles O55: the six bytes are packed first most significant, as in the sample's payload. -/
theorem byteFormsPackInBlockOrder : Obligations.ByteFormsPackInBlockOrder := by
  intro b0 b1 b2 b3 b4 b5
  simp only [assemble, packBytes_hex, Option.map_some, sampleWord_bytes, encode, and_self]

theorem signed_eq (neg : Bool) (n : Nat) : signed neg n = (if neg then -1 else 1) * (n : Int) := by
  cases neg <;> simp [signed]

/-- The microunits of a literal of at most 6 digits after the point, with nothing rounded (R46). -/
theorem micro_exact {l : SiLit} {v : Int} (h : l.micro = some v) :
    l.digits.length ≤ 6 ∧
      v * 10 ^ l.digits.length =
        (if l.neg then -1 else 1) * ((l.whole : Int) * 10 ^ l.digits.length + digitsValue l.digits) * 10 ^ 6 := by
  unfold SiLit.micro at h
  split at h
  next hlen =>
    cases h
    have hpow : (10 : Int) ^ (6 - l.digits.length) * 10 ^ l.digits.length = 10 ^ 6 := pow_sub_mul_pow 10 hlen
    refine ⟨hlen, ?_⟩
    rw [signed_eq]
    push_cast
    linear_combination (if l.neg then -1 else 1) * (digitsValue l.digits : Int) * hpow
  next => cases h

/-- Settles O56: both literals have exact microunits, and each field reads back as its literal's. -/
theorem updateSiNeverRounds : Obligations.UpdateSiNeverRounds := by
  intro a t c h
  simp only [assemble, Option.bind_eq_bind, Option.bind_eq_some_iff, Option.some.injEq,
    signedValue_eq_some_iff (w := 32) (by decide)] at h
  obtain ⟨av, ha, tv, ht, acc, rfl, dt, rfl, rfl⟩ := h
  obtain ⟨halen, hacc⟩ := micro_exact ha
  obtain ⟨htlen, hdt⟩ := micro_exact ht
  exact ⟨acc, dt, rfl, halen, htlen, hacc, hdt⟩

end Sys2Proof.Asm
end
